-- ==== Sys2Proof/Machine/Params.lean ====
section
/-!
DEFINITION. The parameters of spec 00_scope.md R6 that have a value, each in one definition (R8; 93_implementation_defined.md
U1, U17): a width, a size or a count that follows from others is computed from them. The command ids, the OPEN parameters
and the free values are in Config.lean, which needs the types made of these widths.
-/

namespace Sys2Proof.Config

/-- The width of a byte of the serial streams (R9). -/
abbrev byteW : Nat := 8

/-- The width of the header's command id field (R8; 30_encoding.md R62). -/
abbrev idW : Nat := 8

/-- `LEN_W`, the width of the header's payload length field (R6, R8). -/
abbrev lenW : Nat := 16

/-- `CMD_W`, the width of a stored command (R6). -/
abbrev cmdW : Nat := 3

/-- `SAMPLE_W` (R6, D2). -/
abbrev sampleW : Nat := 16

/-- `RATE_W`, the width of the rate integer and of `ACTLEN` (R6, D3; 10_state.md R26). -/
abbrev rateW : Nat := 16

/-- `PERIOD_W`, the width of the period registers and of the counters (R6, D18). -/
abbrev periodW : Nat := 32

/-- The width of the gain's bit pattern, whose format is binary32 (R6, D22). -/
abbrev gainW : Nat := 32

/-- `CAPTURE_CAPACITY` (R6). -/
abbrev captureCapacity : Nat := 100

/-- `PLAYBACK_CAPACITY` (R6). -/
abbrev playbackCapacity : Nat := 200

/-- `K_RATE` (R6). -/
abbrev kRate : Nat := 50

/-- `CAP_BASE` (R6; 20_memory.md R43). -/
abbrev capBase : Nat := 0

/-- `PLAY_BASE` (R6; 20_memory.md R43). -/
abbrev playBase : Nat := 0

/-- `OUT_MIN` (R6). -/
abbrev outMin : Int := -32768

/-- `OUT_MAX` (R6). -/
abbrev outMax : Int := 32767

/-- How many bytes carry a value of `w` bits over the wire (20_memory.md R45). -/
abbrev bytesOf (w : Nat) : Nat := (w + byteW - 1) / byteW

/-- The width of the header word (30_encoding.md R63). -/
abbrev headerW : Nat := idW + lenW

/-- `HEADER_SIZE`, 3 bytes: the id field, then the length field (R6; 30_encoding.md R62). -/
abbrev headerSize : Nat := bytesOf idW + bytesOf lenW

/-- The width of an index that runs from 0 to `n - 1` (R6). -/
abbrev indexW (n : Nat) : Nat := Nat.log2 (n - 1) + 1

/-- `CAPIDX_W`, 7 bits, derived from the capacity (R6). -/
abbrev capIdxW : Nat := indexW captureCapacity

/-- `PLAYIDX_W`, 8 bits, derived from the capacity (R6). -/
abbrev playIdxW : Nat := indexW playbackCapacity

/-- `XFER_W`, 8 bits, derived from both capacities: the bulk index runs over either buffer (R6). -/
abbrev xferW : Nat := indexW (max captureCapacity playbackCapacity)

/-- The least legal `CLOCK_BASE_HZ`: `K_RATE * CAPTURE_CAPACITY` (R7). -/
abbrev clockLeast : Nat := kRate * captureCapacity

end Sys2Proof.Config
end

