-- ==== Sys2Proof/Word.lean ====
section
/-!
DEFINITION. The types of the block's data, of the widths Machine/Params.lean gives (spec 00_scope.md R6, R9).
-/

namespace Sys2Proof

/-- A byte of the serial streams, unsigned (R9). -/
abbrev Byte := BitVec Config.byteW

/-- The command id field of a header (30_encoding.md R62). -/
abbrev CmdId := BitVec Config.idW

/-- The payload length field of a header, unsigned (R6: `LEN_W`). -/
abbrev Len := BitVec Config.lenW

/-- The rate integer and `ACTLEN`, unsigned (R6: `RATE_W`; 10_state.md R26). -/
abbrev Rate := BitVec Config.rateW

/-- A sample or an output word: the two's complement pattern of a signed number (R6: `SAMPLE_W`; R9). -/
abbrev Sample := BitVec Config.sampleW

/-- A period or a counter of the timers (R6: `PERIOD_W`). -/
abbrev Period := BitVec Config.periodW

/-- The gain's bit pattern, in binary32 (R6, D22). -/
abbrev Word := BitVec Config.gainW

/-- A stored command code (R6: `CMD_W`). -/
abbrev CmdCode := BitVec Config.cmdW

/-- The capture cursor (R6: `CAPIDX_W`). -/
abbrev CapIndex := BitVec Config.capIdxW

/-- The playback cursor (R6: `PLAYIDX_W`). -/
abbrev PlayIndex := BitVec Config.playIdxW

/-- The index of the bulk transfers (R6: `XFER_W`). -/
abbrev XferIndex := BitVec Config.xferW

/-- The header word of the opcode table (30_encoding.md R63). -/
abbrev HeaderWord := BitVec Config.headerW

end Sys2Proof
end

