-- ==== Sys2Proof/Machine/Event.lean ====
section
/-!
DEFINITION. The names the block's state is made of: stored commands, interrupt sources, and the thirteen steps of
spec 00_scope.md R11 as events of a schedule.
-/

namespace Sys2Proof.Machine

/-- A stored command, the contents of `PEND_CMD` and `DISP_CMD` (10_state.md R14, R22). Five values, so that the
patterns 5, 6 and 7 cannot be represented (93_implementation_defined.md U12; log 13). -/
inductive Cmd where
  | none
  | receiveRate
  | sendRate
  | receiveWaveform
  | sendWaveform
  deriving DecidableEq, Repr, Inhabited

/-- The interrupt sources an acknowledge can name (00_scope.md R10). -/
inductive Src where
  /-- `SRC_RX_IRQ` -/
  | rxIrq
  /-- `SRC_RX_STATUS` -/
  | rxStatus
  /-- `SRC_CONV` -/
  | conv
  /-- `SRC_ACQ_TMR` -/
  | acqTmr
  /-- `SRC_PLAY_TMR` -/
  | playTmr
  deriving DecidableEq, Repr, Inhabited

/-- The steps of 00_scope.md R11, each with the input the environment supplies to it: a pushed byte, the converted
sample of an acquisition tick (10_state.md R38), a new gain. -/
inductive Event where
  | hostPush (b : Byte)
  | rxHeader
  | claim
  | execRecvRate
  | execSendRate
  | execRecvWave
  | execSendWave
  | acqTick (sample : Sample)
  | playTick
  | clockEdge
  | gainDrive (g : Word)
  | initDone
  | reset
  deriving DecidableEq, Repr, Inhabited

end Sys2Proof.Machine
end

