-- ==== Sys2Proof/Config.lean ====
section
/-!
DEFINITION. The command ids, the OPEN parameters of spec 00_scope.md R6 with their constraints (R7), and the free values:
what the spec leaves open is a constant without a body, so that nothing proved about the model can rest on its value. The
parameters that have a value are in Machine/Params.lean.
-/

namespace Sys2Proof.Config

/-- The command ids, in one place (30_encoding.md R64; R8, U1): `NONE` first, contiguous from 0. -/
def commandId : Machine.Cmd → CmdId
  | .none => 0
  | .receiveRate => 1
  | .sendRate => 2
  | .receiveWaveform => 3
  | .sendWaveform => 4

/-- Which legal value `CLOCK_BASE_HZ` has (log 7). -/
opaque clockChoice : Nat

/-- `CLOCK_BASE_HZ`, an OPEN parameter (R6, D20): any integer from `clockLeast` up to what fits
`PERIOD_W`, and no other (R7; log 7). -/
def clockBaseHz : Nat := clockLeast + clockChoice % (2 ^ periodW - clockLeast)

/-- `PLAY_PERIOD_INIT`, an OPEN parameter (R6, D21): any value of `PERIOD_W` bits (log 7). -/
opaque playPeriodInit : Period

/-- How far `RX_FIFO_DEPTH` exceeds `HEADER_SIZE` (log 7). -/
opaque fifoAboveHeader : Nat

/-- `RX_FIFO_DEPTH`, an OPEN parameter (R6, D11): any integer at least `HEADER_SIZE` (R7; log 7). -/
def rxFifoDepth : Nat := fifoAboveHeader + headerSize

/-- FREE VALUE: the event that comes at turn `n` where no script fixes one; 60_exceptions.md R129 fixes no order and
10_state.md R40 makes inputs and schedule arguments of a run (log 1). -/
opaque freeEvent (turn : Nat) : Machine.Event

/-- FREE VALUE: what a slot of `CAP` holds from the `n`-th reset until it is written
(70_reset_and_hazards.md R143, U7; log 5). -/
opaque capAtReset (resets slot : Nat) : Sample

/-- FREE VALUE: what a slot of `PLAY` holds from the `n`-th reset until it is written (R143, U7; log 5). -/
opaque playAtReset (resets slot : Nat) : Sample

/-- FREE VALUE: what the environment drives on `GAIN` before the first `GainDrive` (10_state.md R31, U7; log 6). -/
opaque gainAtReset : Word

/-- FREE VALUE: the output word of the `n`-th conversion of a NaN product (42_circular_buffer.md R110, U6; log 8). -/
opaque nanWord (draw : Nat) : Sample

end Sys2Proof.Config
end

