-- ==== Sys2Proof/Machine/Operands.lean ====
section
/-!
DEFINITION. Operand forms: byte order, sample coding, the command byte and the index arithmetic (spec 00_scope.md
R9, R10; 30_encoding.md R65, R66; 42_circular_buffer.md R100).
-/

namespace Sys2Proof.Machine

/-- The number a little-endian byte sequence stands for: the first byte is the lowest (R9; 20_memory.md R45). -/
def leNat : List Byte → Nat
  | [] => 0
  | b :: bs => b.toNat + 2 ^ Config.byteW * leNat bs

/-- The `n` lowest bytes of a number, lowest first (20_memory.md R46). -/
def leBytes : Nat → Nat → List Byte
  | 0, _ => []
  | n + 1, v => BitVec.ofNat _ v :: leBytes n (v / 2 ^ Config.byteW)

/-- The `w`-bit value of a little-endian byte sequence. -/
def ofLe {w : Nat} (bs : List Byte) : BitVec w := BitVec.ofNat w (leNat bs)

/-- The bytes of a `w`-bit value as they go over the wire, low byte first (R45, R46). -/
def toLe {w : Nat} (v : BitVec w) : List Byte := leBytes (Config.bytesOf w) v.toNat

/-- Takes the bytes of a `w`-bit value off the front of a byte stream, low byte first; none where there are too few. -/
def popLe (w : Nat) (bs : List Byte) : Option (BitVec w × List Byte) :=
  if Config.bytesOf w ≤ bs.length then
    some (ofLe (bs.take (Config.bytesOf w)), bs.drop (Config.bytesOf w))
  else none

/-- `le16(b0, b1) = b0 + 256 * b1` (R10, R66), for a value of two bytes: the length field, the rate integer, a sample. -/
def le16 {w : Nat} (b0 b1 : Byte) : BitVec w := ofLe [b0, b1]

/-- `toSigned16`: the number a sample's pattern stands for (R9). -/
def toSigned16 (u : Sample) : Int :=
  if u.toNat < 2 ^ (Config.sampleW - 1) then (u.toNat : Int) else (u.toNat : Int) - 2 ^ Config.sampleW

/-- `toBits16`, the inverse of `toSigned16` on the numbers of a sample (R9). -/
def toBits16 (v : Int) : Sample := BitVec.ofInt _ v

/-- The coding of a stored command in `CMD_W` bits: its id (30_encoding.md R64). -/
def Cmd.code (c : Cmd) : CmdCode := (Config.commandId c).setWidth _

/-- `DecodeCmd`: the stored command of a command id byte; every id above 4 gives `NONE` (30_encoding.md R65). -/
def decodeCmd (b : CmdId) : Cmd :=
  if b = Config.commandId .receiveRate then .receiveRate
  else if b = Config.commandId .sendRate then .sendRate
  else if b = Config.commandId .receiveWaveform then .receiveWaveform
  else if b = Config.commandId .sendWaveform then .sendWaveform
  else .none

/-- `NextIdx(i, n) = (i + 1) mod n`, on unbounded integers (42_circular_buffer.md R100, D27). -/
def nextIdx (i n : Nat) : Nat := (i + 1) % n

end Sys2Proof.Machine
end

