-- ==== Sys2Proof/Syntax.lean ====
section
/-!
DEFINITION. The instructions of the block: one constructor per row of spec/opcode_table.json, a header word of three
bytes (30_encoding.md R62, R63).
-/

namespace Sys2Proof

/-- A serial command header. `len` is the payload length field, any value with any command (R66, R67). A row that
covers several ids keeps the id byte as an operand, so that no bit of a header is lost (log 21). Payload bytes are data
that the command consumes, not part of the header (R69; log 22). -/
inductive Instr where
  /-- `NONE`, id 0 (41_dispatch_commands.md R86) -/
  | none (len : Len)
  /-- `RECEIVE_RATE`, id 1 (R87) -/
  | receiveRate (len : Len)
  /-- `SEND_RATE`, id 2 (R89) -/
  | sendRate (len : Len)
  /-- `RECEIVE_WAVEFORM`, id 3 (R91) -/
  | receiveWaveform (len : Len)
  /-- `SEND_WAVEFORM`, id 4 (R93) -/
  | sendWaveform (len : Len)
  /-- `INVALID_05`, id 5 (R95) -/
  | invalid05 (len : Len)
  /-- `INVALID_06_07` (R95) -/
  | invalid06to07 (id : CmdId) (len : Len)
  /-- `INVALID_08_0F` (R95) -/
  | invalid08to0F (id : CmdId) (len : Len)
  /-- `INVALID_10_1F` (R95) -/
  | invalid10to1F (id : CmdId) (len : Len)
  /-- `INVALID_20_3F` (R95) -/
  | invalid20to3F (id : CmdId) (len : Len)
  /-- `INVALID_40_7F` (R95) -/
  | invalid40to7F (id : CmdId) (len : Len)
  /-- `INVALID_80_FF` (R95) -/
  | invalid80toFF (id : CmdId) (len : Len)
  deriving DecidableEq, Repr

end Sys2Proof
end

