-- ==== Sys2Proof/WellFormed.lean ====
section
/-!
DEFINITION. When an instruction term stands for a header word: the id operand of an invalid row lies in the range the
row's name gives (spec 41_dispatch_commands.md R95).
-/

namespace Sys2Proof

/-- The id byte lies in `lo` to `hi`. -/
def idWithin (lo hi : Nat) (id : CmdId) : Bool := decide (lo ≤ id.toNat) && decide (id.toNat ≤ hi)

/-- Well-formed: the id operand, where there is one, belongs to the row. -/
def Instr.wf : Instr → Bool
  | .none _ => true
  | .receiveRate _ => true
  | .sendRate _ => true
  | .receiveWaveform _ => true
  | .sendWaveform _ => true
  | .invalid05 _ => true
  | .invalid06to07 id _ => idWithin 6 7 id
  | .invalid08to0F id _ => idWithin 8 15 id
  | .invalid10to1F id _ => idWithin 16 31 id
  | .invalid20to3F id _ => idWithin 32 63 id
  | .invalid40to7F id _ => idWithin 64 127 id
  | .invalid80toFF id _ => idWithin 128 255 id

end Sys2Proof
end

