-- ==== Sys2Proof/Decode.lean ====
section
/-!
DEFINITION. The decoder, the encoder and the opcode table of the header word (spec 30_encoding.md R62 to R69;
spec/opcode_table.json).
-/

namespace Sys2Proof

/-- Why bytes do not decode. Every three bytes decode (R65), so there is one reason only. -/
inductive DecodeError where
  /-- Fewer than `HEADER_SIZE` bytes are there (40_header_parse.md R76, R83). Raised by `decode`; safe: the Command
  Receiver is not enabled then, and the bytes wait. -/
  | incompleteHeader
  deriving DecidableEq, Repr

/-- The instruction of an id byte and a length field: the masks and matches of the opcode table, in its order. -/
def decodeHeader (id : CmdId) (len : Len) : Instr :=
  if id = Config.commandId .none then .none len
  else if id = Config.commandId .receiveRate then .receiveRate len
  else if id = Config.commandId .sendRate then .sendRate len
  else if id = Config.commandId .receiveWaveform then .receiveWaveform len
  else if id = Config.commandId .sendWaveform then .sendWaveform len
  else if id = 0x05 then .invalid05 len
  else if id &&& 0xFE = 0x06 then .invalid06to07 id len
  else if id &&& 0xF8 = 0x08 then .invalid08to0F id len
  else if id &&& 0xF0 = 0x10 then .invalid10to1F id len
  else if id &&& 0xE0 = 0x20 then .invalid20to3F id len
  else if id &&& 0xC0 = 0x40 then .invalid40to7F id len
  else .invalid80toFF id len

/-- Reads one header from the front of a byte stream: the id field, then the length field, low byte first (R62, R66);
answers the instruction and the bytes after it. -/
def decode (bs : List Byte) : Except DecodeError (Instr × List Byte) :=
  match Machine.popLe Config.idW bs with
  | none => .error .incompleteHeader
  | some (id, bs') =>
    match Machine.popLe Config.lenW bs' with
    | none => .error .incompleteHeader
    | some (len, rest) => .ok (decodeHeader id len, rest)

/-- The id byte an instruction is sent with (R64). -/
def Instr.idByte : Instr → CmdId
  | .none _ => Config.commandId .none
  | .receiveRate _ => Config.commandId .receiveRate
  | .sendRate _ => Config.commandId .sendRate
  | .receiveWaveform _ => Config.commandId .receiveWaveform
  | .sendWaveform _ => Config.commandId .sendWaveform
  | .invalid05 _ => 5
  | .invalid06to07 id _ => id
  | .invalid08to0F id _ => id
  | .invalid10to1F id _ => id
  | .invalid20to3F id _ => id
  | .invalid40to7F id _ => id
  | .invalid80toFF id _ => id

/-- The length field of an instruction (R66). -/
def Instr.lenField : Instr → Len
  | .none len => len
  | .receiveRate len => len
  | .sendRate len => len
  | .receiveWaveform len => len
  | .sendWaveform len => len
  | .invalid05 len => len
  | .invalid06to07 _ len => len
  | .invalid08to0F _ len => len
  | .invalid10to1F _ len => len
  | .invalid20to3F _ len => len
  | .invalid40to7F _ len => len
  | .invalid80toFF _ len => len

/-- The bytes of a header on the wire: the id field, then the length field (R62). -/
def encode (i : Instr) : List Byte := Machine.toLe i.idByte ++ Machine.toLe i.lenField

/-- How many payload bytes the host sends after a header: fixed by the command, whatever the length field says
(R68, R69). -/
def Instr.hostPayload : Instr → Nat
  | .none _ => 0
  | .receiveRate _ => Config.bytesOf Config.rateW
  | .sendRate _ => 0
  | .receiveWaveform _ => Config.bytesOf Config.sampleW * Config.playbackCapacity
  | .sendWaveform _ => 0
  | .invalid05 _ => 0
  | .invalid06to07 _ _ => 0
  | .invalid08to0F _ _ => 0
  | .invalid10to1F _ _ => 0
  | .invalid20to3F _ _ => 0
  | .invalid40to7F _ _ => 0
  | .invalid80toFF _ _ => 0

/-- A frame in the host-to-device direction (R69, R73): a header and the payload bytes after it. -/
structure Frame where
  header : Instr
  payload : List Byte
  deriving DecidableEq, Repr

/-- A complete frame: its header is well-formed and its payload has the size its command fixes (R69, R74). -/
def frameComplete (f : Frame) : Bool :=
  f.header.wf && decide (f.payload.length = f.header.hostPayload)

/-- The bytes of a frame in wire order (R62, R73). -/
def frameBytes (f : Frame) : List Byte := encode f.header ++ f.payload

/-- One row of spec/opcode_table.json: a header word `W` selects it when `W & mask = match` (R63). -/
structure OpcodeRow where
  mnemonic : String
  matchBits : HeaderWord
  mask : HeaderWord
  deriving DecidableEq, Repr

/-- The row of a command with an id of its own: the id field is the id (R63, R64). -/
def commandRow (mnemonic : String) (c : Machine.Cmd) : OpcodeRow :=
  ⟨mnemonic, (Config.commandId c).setWidth _, (BitVec.allOnes Config.idW).setWidth _⟩

/-- The twelve rows of spec/opcode_table.json. -/
def opcodeRows : List OpcodeRow :=
  [commandRow "NONE" .none,
   commandRow "RECEIVE_RATE" .receiveRate,
   commandRow "SEND_RATE" .sendRate,
   commandRow "RECEIVE_WAVEFORM" .receiveWaveform,
   commandRow "SEND_WAVEFORM" .sendWaveform,
   ⟨"INVALID_05", 0x000005, 0x0000FF⟩,
   ⟨"INVALID_06_07", 0x000006, 0x0000FE⟩,
   ⟨"INVALID_08_0F", 0x000008, 0x0000F8⟩,
   ⟨"INVALID_10_1F", 0x000010, 0x0000F0⟩,
   ⟨"INVALID_20_3F", 0x000020, 0x0000E0⟩,
   ⟨"INVALID_40_7F", 0x000040, 0x0000C0⟩,
   ⟨"INVALID_80_FF", 0x000080, 0x000080⟩]

/-- Whether a header word selects a row (R63). -/
def rowSelects (w : HeaderWord) (r : OpcodeRow) : Bool := w &&& r.mask == r.matchBits

/-- The header word of a header's bytes: the first in the lowest bits (R63). -/
def headerWord (bs : List Byte) : HeaderWord := Machine.ofLe bs

/-- The table's name of an instruction's row. -/
def Instr.mnemonic : Instr → String
  | .none _ => "NONE"
  | .receiveRate _ => "RECEIVE_RATE"
  | .sendRate _ => "SEND_RATE"
  | .receiveWaveform _ => "RECEIVE_WAVEFORM"
  | .sendWaveform _ => "SEND_WAVEFORM"
  | .invalid05 _ => "INVALID_05"
  | .invalid06to07 _ _ => "INVALID_06_07"
  | .invalid08to0F _ _ => "INVALID_08_0F"
  | .invalid10to1F _ _ => "INVALID_10_1F"
  | .invalid20to3F _ _ => "INVALID_20_3F"
  | .invalid40to7F _ _ => "INVALID_40_7F"
  | .invalid80toFF _ _ => "INVALID_80_FF"

/-- The bytes, in wire order, of a header whose low `nbits` bits are `w` and whose other bits are zero (R63). -/
def tableBytes (nbits w : Nat) : List Byte := Machine.leBytes Config.headerSize (w % 2 ^ nbits)

/-- The instruction the decoder reads from a table word. -/
def decodeTableWord (nbits w : Nat) : Option Instr :=
  match decode (tableBytes nbits w) with
  | .ok (i, _) => some i
  | .error _ => none

end Sys2Proof
end

