-- ==== Sys2Proof/Machine/Rate.lean ====
section
/-!
DEFINITION. The period formula and the validity check of the rate integer (spec 43_rate_control.md R112, R114).
-/

namespace Sys2Proof.Machine

/-- The period formula for a base clock of `hz` hertz: product, then division dropping the remainder, then the
subtraction (R112, D20). -/
def acqPeriodAt (hz n : Nat) : Nat := hz / (Config.kRate * n) - 1

/-- `AcqPeriod(n)` (R112). -/
def acqPeriod (n : Nat) : Nat := acqPeriodAt Config.clockBaseHz n

/-- A rate integer is valid from 1 to `CAPTURE_CAPACITY`, read unsigned (R114, D5). -/
def rateValid (n : Rate) : Bool :=
  decide (1 ≤ n.toNat) && decide (n.toNat ≤ Config.captureCapacity)

end Sys2Proof.Machine
end

