-- ==== Sys2Proof/Machine/State.lean ====
section
/-!
DEFINITION. The state of the block (spec 10_state.md R13), the reasons a step can stop, and the state after reset
(70_reset_and_hazards.md R142).
-/

namespace Sys2Proof.Machine

/-- Why a step stops with a fault. -/
inductive Fault where
  /-- A capture index outside 0 to 99 at an access to `CAP` (20_memory.md R44, U9). Raised by `acqTick` and by the
  action step of SEND_WAVEFORM. Safe: no state with the invariant reaches it, and the spec asks for a fault. -/
  | capIndexOutOfRange
  /-- A playback index outside 0 to 199 at an access to `PLAY` (20_memory.md R44, U9). Raised by `playTick` and by the
  action step of RECEIVE_WAVEFORM. Safe, as above. -/
  | playIndexOutOfRange
  deriving DecidableEq, Repr

/-- Why a step is refused. -/
inductive Refusal where
  /-- An instruction without a meaning. Raised by no arm of `exec`: every row of the table has its meaning. Safe. -/
  | notModelled (mnemonic : String)
  /-- `ACTLEN` outside 1 to 100 where it would be the modulus of the capture cursor (U9). Raised by `acqTick`. Safe: no
  state with the invariant reaches it, and the spec asks a model to refuse such a state. -/
  | activeLengthIllegal
  /-- A byte pushed before `INIT_DONE` (40_header_parse.md R75, U15): outside the model of the spec. Raised by the
  event `hostPush`. Safe: the spec gives no effect. -/
  | byteBeforeStartUp
  deriving DecidableEq, Repr

/-- A sample memory: the slots written since the last reset with what they hold, slot numbers strictly rising. A slot
that is not listed still holds what the reset left in it (R32, R33; log 5, 17). -/
abbrev Memory := List (Nat × Sample)

/-- The state of the block. The fields of the spec come first, in the order of 10_state.md R13; the last four are the
model's own (log 20). -/
structure State where
  /-- `PEND_CMD` (R14) -/
  pendCmd : Cmd
  /-- `PEND_LEN` (R15) -/
  pendLen : Len
  /-- `RXSTAT` (R17) -/
  rxstat : Bool
  /-- `DISP_CMD` (R22) -/
  dispCmd : Cmd
  /-- `XFER_IDX` (R23) -/
  xferIdx : XferIndex
  /-- `ACTLEN` (R26) -/
  actlen : Rate
  /-- `CAPIDX` (R24) -/
  capIdx : CapIndex
  /-- `PLAYIDX` (R25) -/
  playIdx : PlayIndex
  /-- `ACQPRD` (R27) -/
  acqPrd : Period
  /-- `ACQCNT` (R28) -/
  acqCnt : Period
  /-- `ACQREQ` (R18) -/
  acqReq : Bool
  /-- `PLAYPRD` (R29) -/
  playPrd : Period
  /-- `PLAYCNT` (R30) -/
  playCnt : Period
  /-- `PLAYREQ` (R19) -/
  playReq : Bool
  /-- `GAIN`, a binary32 pattern (R31) -/
  gain : Word
  /-- `INIT_DONE` (R21) -/
  initDone : Bool
  /-- `RX_OVERRUN` (R20) -/
  rxOverrun : Bool
  /-- `CAP` (R32) -/
  cap : Memory
  /-- `PLAY` (R33) -/
  play : Memory
  /-- `RXFIFO`, oldest byte first (R34) -/
  rxfifo : List Byte
  /-- `TX`, first byte first (R35) -/
  tx : List Byte
  /-- `DAC`, first word first (R36) -/
  dac : List Sample
  /-- `ACKS`, first acknowledge first (R37) -/
  acks : List Src
  /-- MODEL: resets taken so far; which free contents unwritten slots have (log 5). -/
  resets : Nat
  /-- MODEL: NaN output words drawn so far (log 8). -/
  nanDraws : Nat
  /-- MODEL: events fixed in advance, the next one first; after them the schedule is free (log 1). -/
  script : List Event
  /-- MODEL: steps taken so far; the index of the free schedule (log 1). -/
  turns : Nat
  deriving DecidableEq, Repr

/-- The period register's value for an active length `n` (10_state.md R27). -/
def acqPeriodWord (n : Nat) : Period := BitVec.ofNat _ (acqPeriod n)

/-- The machine right after reset (R142). -/
def State.reset : State where
  pendCmd := .none
  pendLen := 0
  rxstat := false
  dispCmd := .none
  xferIdx := 0
  actlen := BitVec.ofNat _ Config.captureCapacity
  capIdx := 0
  playIdx := 0
  acqPrd := acqPeriodWord Config.captureCapacity
  acqCnt := acqPeriodWord Config.captureCapacity
  acqReq := false
  playPrd := Config.playPeriodInit
  playCnt := Config.playPeriodInit
  playReq := false
  gain := Config.gainAtReset
  initDone := false
  rxOverrun := false
  cap := []
  play := []
  rxfifo := []
  tx := []
  dac := []
  acks := []
  resets := 0
  nanDraws := 0
  script := []
  turns := 0

end Sys2Proof.Machine
end

