-- ==== Sys2Proof/Machine/Flags.lean ====
section
/-!
DEFINITION. The conditions the steps are guarded by (spec 40_header_parse.md R76, R77; the guards of R75, R78, R85, R88,
R90, R92, R94, R103, R107, R118, R145).
-/

namespace Sys2Proof.Machine

/-- The trigger of the Command Receiver: a header's worth of bytes is present (R76). -/
def rxTrigger (s : State) : Bool := decide (Config.headerSize ≤ s.rxfifo.length)

/-- `RxHold`, with `RX_HOLD_MODE = BUSY`: the dispatcher is busy (R77; log 12). -/
def rxHold (s : State) : Bool := s.dispCmd != .none

/-- The payload bytes of one action step, which takes a value of `w` bits, are present (R88, R92). -/
def payloadReady (w : Nat) (s : State) : Bool := decide (Config.bytesOf w ≤ s.rxfifo.length)

/-- The guard of a step: whether it may be the next one (00_scope.md R11; 10_state.md R21). -/
def Event.enabled : Event → State → Bool
  | .hostPush _, s => s.initDone
  | .rxHeader, s => s.initDone && rxTrigger s && !rxHold s
  | .claim, s => s.initDone && s.dispCmd == .none
  | .execRecvRate, s => s.initDone && s.dispCmd == .receiveRate && payloadReady Config.rateW s
  | .execSendRate, s => s.initDone && s.dispCmd == .sendRate
  | .execRecvWave, s => s.initDone && s.dispCmd == .receiveWaveform && payloadReady Config.sampleW s
  | .execSendWave, s => s.initDone && s.dispCmd == .sendWaveform
  | .acqTick _, s => s.initDone && s.acqReq
  | .playTick, s => s.initDone && s.playReq
  | .clockEdge, s => s.initDone
  | .gainDrive _, _ => true
  | .initDone, s => !s.initDone
  | .reset, _ => true

end Sys2Proof.Machine
end

