-- ==== Sys2Proof/Machine/Gain.lean ====
section
/-!
DEFINITION. The numerics of the playback path: binary32 values, the product with one rounding to nearest even, and the
conversion to the output word (spec 42_circular_buffer.md R109, R110).
-/

namespace Sys2Proof.Machine

/-- A binary32 value. `finite neg m e` is `m * 2 ^ e`, negated when `neg`; in canonical form `m < 2 ^ 24`,
`-149 ≤ e ≤ 104`, and `2 ^ 23 ≤ m` unless `e = -149`. NaNs are not told apart: the spec gives a NaN product no
word (U6; log 9). -/
inductive Binary32 where
  | nan
  | inf (neg : Bool)
  | finite (neg : Bool) (m : Nat) (e : Int)
  deriving DecidableEq, Repr

/-- The value of a binary32 bit pattern: sign in bit 31, exponent in 30:23, fraction in 22:0 (R109, IEEE 754). -/
def binary32OfBits (g : Word) : Binary32 :=
  let neg := g.msb
  let ex := (g.extractLsb' 23 8).toNat
  let fr := (g.extractLsb' 0 23).toNat
  if ex = 255 then
    if fr = 0 then .inf neg else .nan
  else if ex = 0 then .finite neg fr (-149)
  else .finite neg (fr + 2 ^ 23) ((ex : Int) - 150)

/-- The number of bits of `m`. -/
def bitLength (m : Nat) : Nat := if m = 0 then 0 else m.log2 + 1

/-- The exponent of the last place that binary32 keeps of `m * 2 ^ e`. -/
def lastPlace (m : Nat) (e : Int) : Int := max (e + bitLength m - 24) (-149)

/-- `m / 2 ^ k` rounded to nearest, ties to even. -/
def divNearestEven (m k : Nat) : Nat :=
  let q := m / 2 ^ k
  let r := m % 2 ^ k
  if 2 ^ k < 2 * r ∨ (2 * r = 2 ^ k ∧ q % 2 = 1) then q + 1 else q

/-- The binary32 value nearest to `m * 2 ^ e`, ties to even; too large a value becomes an infinity (R109, IEEE 754). -/
def roundBinary32 (neg : Bool) (m : Nat) (e : Int) : Binary32 :=
  if m = 0 then .finite neg 0 (-149)
  else
    let t := lastPlace m e
    let q := if t ≤ e then m * 2 ^ (e - t).toNat else divNearestEven m (t - e).toNat
    let q' := if q = 2 ^ 24 then 2 ^ 23 else q
    let t' := if q = 2 ^ 24 then t + 1 else t
    if 104 < t' then .inf neg else .finite neg q' t'

/-- `GainMul(s, g)`: the sample, exact in binary32, times the gain with one rounding (R109). -/
def gainMul (s : Sample) (g : Word) : Binary32 :=
  let v := toSigned16 s
  match binary32OfBits g with
  | .nan => .nan
  | .inf neg => if v = 0 then .nan else .inf (neg != decide (v < 0))
  | .finite neg m e => roundBinary32 (neg != decide (v < 0)) (v.natAbs * m) e

/-- The magnitude of `m * 2 ^ e` with its fraction dropped. -/
def truncMagnitude (m : Nat) (e : Int) : Nat :=
  if 0 ≤ e then m * 2 ^ e.toNat else m / 2 ^ (-e).toNat

/-- `OutConv(p)`: no word for a NaN, saturation at `OUT_MIN` and `OUT_MAX`, otherwise the fraction is dropped (R110). A
product is at least `OUT_MAX + 1` exactly when its truncated magnitude is, and at most `OUT_MIN - 1` likewise. -/
def outConv : Binary32 → Option Sample
  | .nan => none
  | .inf neg => some (toBits16 (if neg then Config.outMin else Config.outMax))
  | .finite false m e =>
      let y : Int := truncMagnitude m e
      some (toBits16 (if Config.outMax < y then Config.outMax else y))
  | .finite true m e =>
      let y : Int := -(truncMagnitude m e : Int)
      some (toBits16 (if y < Config.outMin then Config.outMin else y))

/-- The rational number a finite binary32 value is (R109); for statements about the numerics. -/
def binary32Value : Binary32 → Option ℚ
  | .nan => none
  | .inf _ => none
  | .finite neg m e => some ((if neg then -1 else 1) * (m : ℚ) * (2 : ℚ) ^ e)

end Sys2Proof.Machine
end

