-- ==== Sys2Proof/Machine/Ops.lean ====
section
/-!
DEFINITION. The named operations over memories, streams and registers that the steps are made of (spec 00_scope.md R10).
The block takes no exception and returns from none (60_exceptions.md R123, R132), so no operation saves or restores a
state; what ends a command is `release` (41_dispatch_commands.md R96).
-/

namespace Sys2Proof.Machine

/-- The canonical form of a sample memory from slot `lo` on: slots strictly rising, all below `capacity`. -/
def Memory.wfFrom (lo capacity : Nat) : Memory → Bool
  | [] => true
  | (k, _) :: rest => decide (lo ≤ k) && decide (k < capacity) && Memory.wfFrom (k + 1) capacity rest

/-- The canonical form of a sample memory of `capacity` slots (log 5). -/
def Memory.wf (capacity : Nat) (m : Memory) : Bool := Memory.wfFrom 0 capacity m

/-- What slot `a` holds, where `unlisted` says what a slot holds that nothing has written since the reset. -/
def Memory.read (unlisted : Nat → Sample) : Memory → Nat → Sample
  | [], a => unlisted a
  | (k, v) :: rest, a => if a = k then v else Memory.read unlisted rest a

/-- Writes slot `a`, keeping the list in rising order with one entry a slot. -/
def Memory.write : Memory → Nat → Sample → Memory
  | [], a, v => [(a, v)]
  | (k, w) :: rest, a, v =>
    if a < k then (a, v) :: (k, w) :: rest
    else if a = k then (a, v) :: rest
    else (k, w) :: Memory.write rest a v

/-- What slot `a` of `CAP` holds (10_state.md R32, R143). -/
def capSlot (s : State) (a : Nat) : Sample := Memory.read (Config.capAtReset s.resets) s.cap a

/-- What slot `a` of `PLAY` holds (10_state.md R33, R143). -/
def playSlot (s : State) (a : Nat) : Sample := Memory.read (Config.playAtReset s.resets) s.play a

/-- The read `CAP[i]`; an index outside the capacity has no answer (20_memory.md R43, R44). -/
def capRead (s : State) (i : Nat) : Option Sample :=
  if i < Config.captureCapacity then some (capSlot s (Config.capBase + i)) else none

/-- The write `CAP[i] <- v`; an index outside the capacity has no answer (20_memory.md R43, R44). -/
def capWrite (s : State) (i : Nat) (v : Sample) : Option State :=
  if i < Config.captureCapacity then some { s with cap := Memory.write s.cap (Config.capBase + i) v } else none

/-- The read `PLAY[i]` (20_memory.md R43, R44). -/
def playRead (s : State) (i : Nat) : Option Sample :=
  if i < Config.playbackCapacity then some (playSlot s (Config.playBase + i)) else none

/-- The write `PLAY[i] <- v` (20_memory.md R43, R44). -/
def playWrite (s : State) (i : Nat) (v : Sample) : Option State :=
  if i < Config.playbackCapacity then some { s with play := Memory.write s.play (Config.playBase + i) v } else none

/-- `RxLevel()` (R10). -/
def rxLevel (s : State) : Nat := s.rxfifo.length

/-- What is left of `RXFIFO` after pops: the bytes `rest` (R10, R52). -/
def withRx (rest : List Byte) (s : State) : State := { s with rxfifo := rest }

/-- The arrival of a byte at a FIFO of depth `depth`: appended, or dropped with the overrun mark set
(40_header_parse.md R75). -/
def rxArrive (depth : Nat) (b : Byte) (s : State) : State :=
  if s.rxfifo.length < depth then { s with rxfifo := s.rxfifo ++ [b] } else { s with rxOverrun := true }

/-- `TxEmit` of the bytes of a value, low byte first (R10, R46). -/
def txEmit {w : Nat} (v : BitVec w) (s : State) : State := { s with tx := s.tx ++ toLe v }

/-- Publish: the whole pending record in one write, with the status bit and the acknowledge (R16, R51, R78). -/
def publish (c : Cmd) (len : Len) (s : State) : State :=
  { s with pendCmd := c, pendLen := len, rxstat := true, acks := s.acks ++ [.rxIrq] }

/-- `Release()`: acknowledge, clear the status, reset the command, end the hold (41_dispatch_commands.md R96). -/
def release (s : State) : State :=
  { s with acks := s.acks ++ [.rxStatus], rxstat := false, pendCmd := .none, dispCmd := .none, xferIdx := 0 }

/-- The joint update of the active length and the acquisition period (43_rate_control.md R115). -/
def setRate (n : Rate) (s : State) : State := { s with actlen := n, acqPrd := acqPeriodWord n.toNat }

/-- The bulk index moves to the next sample (41_dispatch_commands.md R92, R94). -/
def nextXfer (s : State) : State := { s with xferIdx := s.xferIdx + 1 }

/-- The end of a bulk step: release after the sample of slot `last`, otherwise the next index (R92, R94). -/
def advanceXfer (last : Nat) (s : State) : State :=
  if s.xferIdx.toNat = last then release s else nextXfer s

end Sys2Proof.Machine
end

