-- ==== Sys2Proof/Machine/Command.lean ====
section
/-!
DEFINITION. The frame every command's meaning is written in: which of a command's own steps is due (spec 00_scope.md R5;
10_state.md R22; 40_header_parse.md R77, R78).
-/

namespace Sys2Proof.Machine

/-- The answer of a meaning. -/
abbrev Answer := Host.Outcome State Fault Refusal

/-- One step of the command `c`, as `DISP_CMD` asks (log 4). While the dispatcher polls, the step is the parse of the
command's header: publish (R78). While `c` is claimed, it is the command's action step. While another command is claimed,
the header is held and nothing happens (R77); nothing happens before start-up either (10_state.md R21). -/
def runCommand (c : Cmd) (len : Len) (action : State → Answer) (s : State) : Answer :=
  if s.initDone = false then .next s
  else if s.dispCmd = .none then .next (publish c len s)
  else if s.dispCmd = c then action s
  else .next s

/-- One step of a header that is stored as `NONE`: it is parsed and published, and no action ever follows, since `NONE`
is not claimed into a busy state (41_dispatch_commands.md R86, R95). -/
def runIgnored (len : Len) (s : State) : Answer := runCommand .none len (fun t => .next t) s

end Sys2Proof.Machine
end

