-- ==== Sys2Proof/Machine/Agents.lean ====
section
/-!
DEFINITION. The steps that no command selects: the host's byte, the claim, the two engines, the timers, the gain, start-up
and reset (spec 00_scope.md R11; 30_encoding.md R72). Each is the pseudocode of its rule; the guards are in
`Event.enabled`.
-/

namespace Sys2Proof.Machine

/-- `HostPush(b)` (40_header_parse.md R75). -/
def hostPush (b : Byte) (s : State) : State := rxArrive Config.rxFifoDepth b s

/-- `Claim`: the pending command, unless it is `NONE`, becomes the dispatcher's (41_dispatch_commands.md R85, R86). -/
def claim (s : State) : State :=
  if s.pendCmd = .none then s else { s with dispCmd := s.pendCmd, xferIdx := 0 }

/-- The end of an acquisition tick: the cursor advances modulo the active length, the request is cleared, both
acknowledges go out (42_circular_buffer.md R103). -/
def finishAcq (s : State) : State :=
  { s with
    capIdx := BitVec.ofNat _ (nextIdx s.capIdx.toNat s.actlen.toNat)
    acqReq := false
    acks := s.acks ++ [.conv, .acqTmr] }

/-- `AcqTick` with the converted sample `x`: store at the cursor, then advance (R103). An active length outside 1 to 100
is refused and a cursor outside the capacity faults (U9; log 10). -/
def acqTick (x : Sample) (s : State) : Answer :=
  if rateValid s.actlen then
    match capWrite s s.capIdx.toNat x with
    | some t => .next (finishAcq t)
    | none => .fault .capIndexOutOfRange
  else .refused .activeLengthIllegal

/-- The end of a playback tick with the output word `y`: the word goes out, the cursor advances modulo 200, the request is
cleared, the acknowledge goes out (42_circular_buffer.md R107). -/
def finishPlay (y : Sample) (s : State) : State :=
  { s with
    dac := s.dac ++ [y]
    playIdx := BitVec.ofNat _ (nextIdx s.playIdx.toNat Config.playbackCapacity)
    playReq := false
    acks := s.acks ++ [.playTmr] }

/-- One more unspecified output word has been drawn (U6; log 8). -/
def drawNan (s : State) : State := { s with nanDraws := s.nanDraws + 1 }

/-- `PlayTick`: read at the cursor, scale by the gain, convert, put out, advance (R107). A NaN product puts out a free
word (R110, U6; log 8). -/
def playTick (s : State) : Answer :=
  match playRead s s.playIdx.toNat with
  | some x =>
    match outConv (gainMul x s.gain) with
    | some y => .next (finishPlay y s)
    | none => .next (finishPlay (Config.nanWord s.nanDraws) (drawNan s))
  | none => .fault .playIndexOutOfRange

/-- The acquisition timer's half of an edge: at zero reload and raise the tick, else count down
(43_rate_control.md R118, R119). -/
def acqEdge (s : State) : State :=
  if s.acqCnt = 0 then { s with acqCnt := s.acqPrd, acqReq := true } else { s with acqCnt := s.acqCnt - 1 }

/-- The playback timer's half of an edge (R118, R119). -/
def playEdge (s : State) : State :=
  if s.playCnt = 0 then { s with playCnt := s.playPrd, playReq := true } else { s with playCnt := s.playCnt - 1 }

/-- `ClockEdge`: both timers in the same step (R118). -/
def clockEdge (s : State) : State := playEdge (acqEdge s)

/-- `RaiseAcq` of the model without time (43_rate_control.md R121; log 15); its guard is in `UntimedEvent.enabled`. -/
def raiseAcq (s : State) : State := { s with acqReq := true }

/-- `RaisePlay` of the model without time (R121; log 15); its guard is in `UntimedEvent.enabled`. -/
def raisePlay (s : State) : State := { s with playReq := true }

/-- `GainDrive(g)` (10_state.md R31). -/
def gainDrive (g : Word) (s : State) : State := { s with gain := g }

/-- `InitDone` (70_reset_and_hazards.md R145). -/
def setInitDone (s : State) : State := { s with initDone := true }

/-- `Reset` (70_reset_and_hazards.md R142): every element at its reset value, the buffers' contents unspecified anew, the
gain not written. The script, the turns and the draws belong to the run and go on (log 19). -/
def resetBlock (s : State) : State :=
  { State.reset with
    gain := s.gain
    resets := s.resets + 1
    nanDraws := s.nanDraws
    script := s.script
    turns := s.turns }

end Sys2Proof.Machine
end

