-- ==== Sys2Proof/Machine/Ignored.lean ====
section
/-!
DEFINITION. The command `NONE` and the invalid command ids: parsed, stored as `NONE`, no action (spec
41_dispatch_commands.md R86, R95; 30_encoding.md R70, R71). The length is kept and the id is not (60_exceptions.md R124).
-/

namespace Sys2Proof.Machine

/-- `NONE` (R86). -/
def execNone (len : Len) (s : State) : Answer := runIgnored len s

/-- Id 5 (R95). -/
def execInvalid05 (len : Len) (s : State) : Answer := runIgnored len s

/-- Ids 6 and 7 (R95). -/
def execInvalid06to07 (_id : CmdId) (len : Len) (s : State) : Answer := runIgnored len s

/-- Ids 8 to 15 (R95). -/
def execInvalid08to0F (_id : CmdId) (len : Len) (s : State) : Answer := runIgnored len s

/-- Ids 16 to 31 (R95). -/
def execInvalid10to1F (_id : CmdId) (len : Len) (s : State) : Answer := runIgnored len s

/-- Ids 32 to 63 (R95). -/
def execInvalid20to3F (_id : CmdId) (len : Len) (s : State) : Answer := runIgnored len s

/-- Ids 64 to 127 (R95). -/
def execInvalid40to7F (_id : CmdId) (len : Len) (s : State) : Answer := runIgnored len s

/-- Ids 128 to 255 (R95). -/
def execInvalid80toFF (_id : CmdId) (len : Len) (s : State) : Answer := runIgnored len s

end Sys2Proof.Machine
end

