-- ==== Sys2Proof/Machine/RateCommands.lean ====
section
/-!
DEFINITION. `RECEIVE_RATE` and `SEND_RATE` (spec 41_dispatch_commands.md R87 to R90).
-/

namespace Sys2Proof.Machine

/-- `ExecRecvRate`: two payload bytes, low byte first; a valid rate sets length and period together, an invalid one
changes neither; released in both cases. With fewer than two bytes the dispatcher waits (R88, R98). -/
def recvRateAction (s : State) : Answer :=
  match popLe Config.rateW s.rxfifo with
  | some (n, rest) => .next (release (if rateValid n then setRate n (withRx rest s) else withRx rest s))
  | none => .next s

/-- `ExecSendRate`: the active length goes out, low byte first, and the command is released (R90). -/
def sendRateAction (s : State) : Answer := .next (release (txEmit s.actlen s))

/-- `RECEIVE_RATE` (R87). -/
def execReceiveRate (len : Len) (s : State) : Answer := runCommand .receiveRate len recvRateAction s

/-- `SEND_RATE` (R89). -/
def execSendRate (len : Len) (s : State) : Answer := runCommand .sendRate len sendRateAction s

end Sys2Proof.Machine
end

