-- ==== Sys2Proof/Machine/WaveCommands.lean ====
section
/-!
DEFINITION. `RECEIVE_WAVEFORM` and `SEND_WAVEFORM` (spec 41_dispatch_commands.md R91 to R94).
-/

namespace Sys2Proof.Machine

/-- `ExecRecvWave`: one sample of the payload goes to slot `XFER_IDX` of `PLAY`; the sample of slot 199 releases. With
fewer than two bytes the dispatcher waits (R92, R98). -/
def recvWaveAction (s : State) : Answer :=
  match popLe Config.sampleW s.rxfifo with
  | some (u, rest) =>
    match playWrite (withRx rest s) s.xferIdx.toNat u with
    | some t => .next (advanceXfer (Config.playbackCapacity - 1) t)
    | none => .fault .playIndexOutOfRange
  | none => .next s

/-- `ExecSendWave`: the sample of slot `XFER_IDX` of `CAP` goes out, low byte first; the sample of slot 99 releases
(R94). -/
def sendWaveAction (s : State) : Answer :=
  match capRead s s.xferIdx.toNat with
  | some u => .next (advanceXfer (Config.captureCapacity - 1) (txEmit u s))
  | none => .fault .capIndexOutOfRange

/-- `RECEIVE_WAVEFORM` (R91). -/
def execReceiveWaveform (len : Len) (s : State) : Answer := runCommand .receiveWaveform len recvWaveAction s

/-- `SEND_WAVEFORM` (R93). -/
def execSendWaveform (len : Len) (s : State) : Answer := runCommand .sendWaveform len sendWaveAction s

end Sys2Proof.Machine
end

