-- ==== Sys2Proof/Machine/Dispatch.lean ====
section
/-!
DEFINITION. `exec`: one arm per constructor of `Instr`, each one direct call of a meaning.
-/

namespace Sys2Proof.Machine

def exec (i : Instr) (s : State) : Host.Outcome State Fault Refusal :=
  match i with
  | .none len => Sys2Proof.Machine.execNone len s
  | .receiveRate len => Sys2Proof.Machine.execReceiveRate len s
  | .sendRate len => Sys2Proof.Machine.execSendRate len s
  | .receiveWaveform len => Sys2Proof.Machine.execReceiveWaveform len s
  | .sendWaveform len => Sys2Proof.Machine.execSendWaveform len s
  | .invalid05 len => Sys2Proof.Machine.execInvalid05 len s
  | .invalid06to07 id len => Sys2Proof.Machine.execInvalid06to07 id len s
  | .invalid08to0F id len => Sys2Proof.Machine.execInvalid08to0F id len s
  | .invalid10to1F id len => Sys2Proof.Machine.execInvalid10to1F id len s
  | .invalid20to3F id len => Sys2Proof.Machine.execInvalid20to3F id len s
  | .invalid40to7F id len => Sys2Proof.Machine.execInvalid40to7F id len s
  | .invalid80toFF id len => Sys2Proof.Machine.execInvalid80toFF id len s

end Sys2Proof.Machine
end

