-- ==== Sys2Proof/Machine/Schedule.lean ====
section
/-!
DEFINITION. Which step comes next and what it runs (spec 00_scope.md R11; 60_exceptions.md R129): the script or the free
schedule names an event, its guard decides whether it happens, and the event either is an operation of an agent or runs
an instruction.
-/

namespace Sys2Proof.Machine

/-- The event whose turn it is: the script's next one, or, where the script is used up, a free one (log 1). -/
def nextEvent (s : State) : Event :=
  match s.script with
  | e :: _ => e
  | [] => Config.freeEvent s.turns

/-- The state in which the event of this turn is taken: the turn is counted and the script is one event shorter. -/
def State.advance (s : State) : State := { s with script := s.script.tail, turns := s.turns + 1 }

/-- The fetch of `RxHeader`: the three oldest bytes of `RXFIFO` as an instruction, and the state without them
(40_header_parse.md R78). -/
def fetchHeader (s : State) : Option (Instr × State) :=
  match decode s.rxfifo with
  | .ok (i, rest) => some (i, withRx rest s)
  | .error _ => none

/-- What an event comes to: an instruction to run in a state, or an answer. -/
inductive Action where
  | run (i : Instr) (s : State)
  | answer (o : Answer)
  deriving Repr

/-- What an event comes to when its guard does not hold: nothing happens (log 2); but a byte that arrives before start-up
is outside the model (40_header_parse.md R75, U15; log 3). -/
def notEnabled (e : Event) (s : State) : Action :=
  match e with
  | .hostPush _ => .answer (.refused .byteBeforeStartUp)
  | _ => .answer (.next s)

/-- What an event comes to when its guard holds (00_scope.md R11). `RxHeader` runs the header at the front of `RXFIFO`;
the dispatcher's steps run the claimed command, whose length field `PEND_LEN` still holds (10_state.md R15, R41 I6). -/
def takeEvent (e : Event) (s : State) : Action :=
  match e with
  | .hostPush b => .answer (.next (hostPush b s))
  | .rxHeader =>
    match fetchHeader s with
    | some (i, t) => .run i t
    | none => .answer (.next s)
  | .claim => .answer (.next (claim s))
  | .execRecvRate => .run (.receiveRate s.pendLen) s
  | .execSendRate => .run (.sendRate s.pendLen) s
  | .execRecvWave => .run (.receiveWaveform s.pendLen) s
  | .execSendWave => .run (.sendWaveform s.pendLen) s
  | .acqTick x => .answer (acqTick x s)
  | .playTick => .answer (playTick s)
  | .clockEdge => .answer (.next (clockEdge s))
  | .gainDrive g => .answer (.next (gainDrive g s))
  | .initDone => .answer (.next (setInitDone s))
  | .reset => .answer (.next (resetBlock s))

/-- What an event comes to. -/
def eventAction (e : Event) (s : State) : Action :=
  if e.enabled s then takeEvent e s else notEnabled e s

/-- One event taken in a state: where it comes to an instruction, `exec` runs it. -/
def perform (e : Event) (s : State) : Answer :=
  match eventAction e s with
  | .run i t => exec i t
  | .answer o => o

/-- `s` with the header bytes at the front of `RXFIFO`, over the first three that stood there, the Command Receiver
enabled and its step next (log 16). -/
def placeHeader (bytes : List Byte) (s : State) : State :=
  { s with
    initDone := true
    dispCmd := .none
    rxfifo := bytes ++ s.rxfifo.drop Config.headerSize
    script := .rxHeader :: s.script }

end Sys2Proof.Machine
end

