-- ==== Sys2Proof/Machine/Step.lean ====
section
/-!
DEFINITION. One step of the machine (spec 00_scope.md R11).
-/

namespace Sys2Proof.Machine

/-- One step: the event of this turn is taken. -/
def step (s : State) : Host.Outcome State Fault Refusal :=
  perform (nextEvent s) s.advance

/-- `s` with the header word `w` where `step` fetches its next instruction (log 16). -/
def State.withFetchWord (s : State) (nbits w : Nat) : State := placeHeader (tableBytes nbits w) s

end Sys2Proof.Machine
end

