-- ==== Sys2Proof/Machine/Framing.lean ====
section
/-!
DEFINITION. The framing state machine, byte by byte: the four-state refinement of the parse step (spec 40_header_parse.md
R81). Its states and latches are no part of `State`: they are dead between two steps (R81; log 14).
-/

namespace Sys2Proof.Machine

/-- The states of the framing machine (R81). -/
inductive FrState where
  /-- `FR_WAIT` -/
  | wait
  /-- `FR_CMD` -/
  | cmd
  /-- `FR_LENLO` -/
  | lenLo
  /-- `FR_LENHI` -/
  | lenHi
  deriving DecidableEq, Repr

/-- The framing machine with its byte latches and the block around it (R81). -/
structure Framing where
  fr : FrState
  /-- `fr_cmd` -/
  frCmd : Byte
  /-- `fr_lo` -/
  frLo : Byte
  block : State
  deriving DecidableEq, Repr

/-- One move of the framing machine (the table of R81). Without a byte it stays where it is, which the table excludes for
the three inner states. -/
def framingMove (f : Framing) : Framing :=
  match f.fr with
  | .wait => if f.block.initDone && rxTrigger f.block && !rxHold f.block then { f with fr := .cmd } else f
  | .cmd =>
    match f.block.rxfifo with
    | b :: rest => { f with fr := .lenLo, frCmd := b, block := withRx rest f.block }
    | [] => f
  | .lenLo =>
    match f.block.rxfifo with
    | b :: rest => { f with fr := .lenHi, frLo := b, block := withRx rest f.block }
    | [] => f
  | .lenHi =>
    match f.block.rxfifo with
    | b :: rest =>
      { f with fr := .wait, block := publish (decodeCmd (ofLe [f.frCmd])) (ofLe [f.frLo, b]) (withRx rest f.block) }
    | [] => f

end Sys2Proof.Machine
end

