-- ==== Sys2Proof/Machine/Untimed.lean ====
section
/-!
DEFINITION. The model without time (spec 43_rate_control.md R121): no clock edges, and two steps of the environment that
raise the requests at any time after start-up. The machine itself keeps the timers (log 15).
-/

namespace Sys2Proof.Machine

/-- The steps of the model without time: `RaiseAcq`, `RaisePlay`, and the events of the timed model (R121). -/
inductive UntimedEvent where
  | raiseAcq
  | raisePlay
  | timed (e : Event)
  deriving DecidableEq, Repr

/-- The guards: both raises ask for `INIT_DONE = 1`, and a clock edge is no step of this model (R121). -/
def UntimedEvent.enabled : UntimedEvent → State → Bool
  | .raiseAcq, s => s.initDone
  | .raisePlay, s => s.initDone
  | .timed .clockEdge, _ => false
  | .timed e, s => e.enabled s

/-- The effect of a step of this model whose guard holds (R121). -/
def takeUntimed (u : UntimedEvent) (s : State) : Answer :=
  match u with
  | .raiseAcq => .next (raiseAcq s)
  | .raisePlay => .next (raisePlay s)
  | .timed e => perform e s

/-- One step of this model; where the guard does not hold nothing happens (log 2). -/
def performUntimed (u : UntimedEvent) (s : State) : Answer :=
  if u.enabled s then takeUntimed u s else .next s

/-- Steps of this model, one after the other, up to the first that stops. -/
def runUntimed : List UntimedEvent → State → Answer
  | [], s => .next s
  | u :: us, s =>
    match performUntimed u s with
    | .next t => runUntimed us t
    | .fault r => .fault r
    | .refused r => .refused r

/-- What this model keeps of a state: everything but the two counters (R121); the model's own schedule is left out
as well (log 1). -/
def State.untimed (s : State) : State := { s with acqCnt := 0, playCnt := 0, script := [], turns := 0 }

end Sys2Proof.Machine
end

