-- ==== Sys2Proof/Safety.lean ====
section
/-!
DEFINITION. What counts as a safe state and a safe run, in the terms the claims use (spec 10_state.md R41, R20;
00_scope.md R12; 70_reset_and_hazards.md R147).
-/

namespace Sys2Proof.Machine

/-- The invariants of 10_state.md R41. I1 holds by the type `Cmd`. `capForm` and `playForm` are the model's own: the two
memories keep their canonical form (log 5). -/
structure State.Inv (s : State) : Prop where
  /-- I2 -/
  actlenLegal : 1 ≤ s.actlen.toNat ∧ s.actlen.toNat ≤ Config.captureCapacity
  /-- I3, the capture cursor -/
  capIdxLegal : s.capIdx.toNat < Config.captureCapacity
  /-- I3, the playback cursor -/
  playIdxLegal : s.playIdx.toNat < Config.playbackCapacity
  /-- I4 -/
  periodMatches : s.acqPrd = acqPeriodWord s.actlen.toNat
  /-- I5, while an upload runs -/
  xferUpload : s.dispCmd = .receiveWaveform → s.xferIdx.toNat < Config.playbackCapacity
  /-- I5, while a download runs -/
  xferDownload : s.dispCmd = .sendWaveform → s.xferIdx.toNat < Config.captureCapacity
  /-- I5, otherwise -/
  xferIdle : s.dispCmd ≠ .receiveWaveform → s.dispCmd ≠ .sendWaveform → s.xferIdx = 0
  /-- I6 -/
  claimedIsPending : s.dispCmd ≠ .none → s.pendCmd = s.dispCmd
  /-- I7 -/
  fifoWithinDepth : s.rxfifo.length ≤ Config.rxFifoDepth
  /-- I8 -/
  playPeriodFixed : s.playPrd = Config.playPeriodInit
  capForm : Memory.wf Config.captureCapacity s.cap = true
  playForm : Memory.wf Config.playbackCapacity s.play = true

/-- A state the spec calls faulted: a received byte has been lost (10_state.md R20, U3; log 11). -/
def State.faulted (s : State) : Prop := s.rxOverrun = true

/-- A safe state: the invariants hold and no byte has been lost. -/
def State.Safe (s : State) : Prop := s.Inv ∧ ¬ s.faulted

/-- A quiescent state: neither the Command Receiver nor the dispatcher can change anything (00_scope.md R12, D33). -/
def State.Quiescent (s : State) : Prop :=
  s.dispCmd = .none ∧ s.pendCmd = .none ∧ rxLevel s < Config.headerSize

/-- `n` steps of the machine, one after the other, up to the first that stops. -/
def runFor (n : Nat) (s : State) : Answer := Sys2Proof.core.run n s

/-- `r` is a run under the schedule `schedule`: in every state the schedule's event is taken (60_exceptions.md R129). -/
def IsRun (schedule : Nat → Event) (r : Nat → State) : Prop :=
  ∀ n, perform (schedule n) (r n) = .next (r (n + 1))

/-- The steps that fairness is assumed of: those of the Command Receiver, the dispatcher and the two engines
(60_exceptions.md R131). No fairness is assumed of the host, of the clock or of the environment; for the raises of the model
without time see `TimersKeepRunning`. -/
inductive FairStep where
  | rxHeader
  | claim
  | execRecvRate
  | execSendRate
  | execRecvWave
  | execSendWave
  | acqTick
  | playTick
  deriving DecidableEq, Repr

/-- The events that are this step: one, or, for an acquisition tick, one for each converted sample (R131). -/
def FairStep.isStep : FairStep → Event → Prop
  | .rxHeader, e => e = .rxHeader
  | .claim, e => e = .claim
  | .execRecvRate, e => e = .execRecvRate
  | .execSendRate, e => e = .execSendRate
  | .execRecvWave, e => e = .execRecvWave
  | .execSendWave, e => e = .execSendWave
  | .acqTick, e => ∃ x, e = .acqTick x
  | .playTick, e => e = .playTick

/-- The step is enabled: the guard of one of its events holds. -/
def FairStep.enabled (f : FairStep) (s : State) : Prop := ∃ e, f.isStep e ∧ e.enabled s = true

/-- Weak fairness to one step, of which `enabled` and `taken` say at which places of a run it is enabled and taken: if it
stays enabled from some place on, it is taken at some later one, without a bound (R131). -/
def FairTo (enabled taken : Nat → Prop) : Prop :=
  ∀ n, (∀ m, n ≤ m → enabled m) → ∃ m, n ≤ m ∧ taken m

/-- Weak fairness of a run: a step of the Command Receiver, the dispatcher or an engine that stays enabled is eventually
taken, without a bound (60_exceptions.md R131, D24; log 18). -/
def WeaklyFair (schedule : Nat → Event) (r : Nat → State) : Prop :=
  ∀ f : FairStep, FairTo (fun m => f.enabled (r m)) (fun m => f.isStep (schedule m))

/-- `r` is a run of the model without time under the schedule `schedule` (43_rate_control.md R121; log 15). -/
def IsUntimedRun (schedule : Nat → UntimedEvent) (r : Nat → State) : Prop :=
  ∀ n, performUntimed (schedule n) (r n) = .next (r (n + 1))

/-- "The timers keep running" in the model without time: weak fairness to `RaiseAcq` and to `RaisePlay` (R121, D24). -/
def TimersKeepRunning (schedule : Nat → UntimedEvent) (r : Nat → State) : Prop :=
  ∀ u ∈ [UntimedEvent.raiseAcq, .raisePlay], FairTo (fun m => u.enabled (r m) = true) (fun m => schedule m = u)

/-- `PACING`: in the run, no `RxHeader` step occurs while `PEND_CMD` is not `NONE` (70_reset_and_hazards.md R147). -/
def Paced (schedule : Nat → Event) (r : Nat → State) : Prop :=
  ∀ n, schedule n = .rxHeader → Event.rxHeader.enabled (r n) = true → (r n).pendCmd = .none

/-- The bytes of each of a list of values, low byte first, as they go over the wire (R46, R68). -/
def wireBytes {w : Nat} (vs : List (BitVec w)) : List Byte := vs.flatMap toLe

/-- One schedule of an upload that meets `Paced`: the host pushes a `RECEIVE_WAVEFORM` header with length field
`len`, it is parsed and claimed, and then each sample of `w` is pushed, low byte first, and stored (R91, R147). -/
def uploadSchedule (len : Len) (w : List Sample) : List Event :=
  (encode (.receiveWaveform len)).map .hostPush ++ [.rxHeader, .claim] ++
    w.flatMap fun x => (toLe x).map .hostPush ++ [.execRecvWave]

/-- Acquisition ticks one after the other in the model without time, each raised and then served, with the converted
samples `xs` (42_circular_buffer.md R104; 43_rate_control.md R121; log 15). -/
def serveAcq (xs : List Sample) (s : State) : Answer :=
  runUntimed (xs.flatMap fun x => [.raiseAcq, .timed (.acqTick x)]) s

/-- `n` playback ticks one after the other in the model without time, each raised and then served (R108, R121; log 15). -/
def servePlay (n : Nat) (s : State) : Answer :=
  runUntimed ((List.replicate n [.raisePlay, .timed .playTick]).flatten) s

/-- `n` edges of the base clock, one after the other (43_rate_control.md R118). -/
def clockEdges : Nat → State → State
  | 0, s => s
  | n + 1, s => clockEdges n (clockEdge s)

/-- The four moves of the framing machine through one header (40_header_parse.md R81). -/
def framingRun (f : Framing) : Framing := framingMove (framingMove (framingMove (framingMove f)))

end Sys2Proof.Machine
end

