-- ==== Sys2Proof/Certificates/Slice0/Obligations.lean ====
section
/-!
DEFINITION. The statements for the provers. Each says what a rule of the spec says of the machine, for every state that
meets hypotheses on the state and the operands alone; a result statement gives the whole next state, so that its frame
is in it. Where a statement is about `step`, its clauses on `script` and `turns` are about the model's own schedule (log 1)
and rest on no rule of the spec; so do clauses on `resets` (log 5) and `nanDraws` (log 8).
-/

open Sys2Proof Sys2Proof.Machine

/-! ## Encoding -/

/-- Decoding what the encoder writes gives the instruction back, with every operand at every value the encoding admits,
whatever bytes follow (30_encoding.md R62, R63). -/
def Obligations.DecodeOfEncodeIsIdentity : Prop :=
  ∀ (i : Instr) (rest : List Byte), i.wf = true → decode (encode i ++ rest) = .ok (i, rest)

/-- Any three bytes are the header of exactly one well-formed instruction: its encoding is those bytes (R62, R65). -/
def Obligations.EveryHeaderIsOneInstruction : Prop :=
  ∀ (b0 b1 b2 : Byte) (rest : List Byte),
    ∃ i : Instr, i.wf = true ∧ decode (b0 :: b1 :: b2 :: rest) = .ok (i, rest) ∧ encode i = [b0, b1, b2] ∧
      ∀ j : Instr, j.wf = true → encode j = [b0, b1, b2] → j = i

/-- A header word selects exactly one row of the opcode table, the row of the instruction it decodes to (R63). -/
def Obligations.HeaderSelectsExactlyItsRow : Prop :=
  ∀ b0 b1 b2 : Byte,
    (opcodeRows.filter (rowSelects (headerWord [b0, b1, b2]))).map OpcodeRow.mnemonic =
      [(decodeHeader b0 (le16 b1 b2)).mnemonic]

/-- A few header words written out from the table of 30_encoding.md R64, with the decoder's answer; a header of fewer
than three bytes has none (40_header_parse.md R76). -/
def Obligations.WrittenOutHeadersDecode : Prop :=
  decode [0x00, 0xAA, 0x55] = .ok (.none 0x55AA, []) ∧
  decode [0x01, 0x02, 0x00, 0x0A, 0x00] = .ok (.receiveRate 2, [0x0A, 0x00]) ∧
  decode [0x02, 0x00, 0x00] = .ok (.sendRate 0, []) ∧
  decode [0x03, 0x90, 0x01] = .ok (.receiveWaveform 400, []) ∧
  decode [0x04, 0x00, 0x00, 0x02] = .ok (.sendWaveform 0, [0x02]) ∧
  decode [0x05, 0x00, 0x00] = .ok (.invalid05 0, []) ∧
  decode [0x07, 0x34, 0x12] = .ok (.invalid06to07 0x07 0x1234, []) ∧
  decode [0x80, 0x01, 0x00] = .ok (.invalid80toFF 0x80 1, []) ∧
  decode [0xFF, 0xFF, 0xFF] = .ok (.invalid80toFF 0xFF 0xFFFF, []) ∧
  decode [0x01, 0x02] = .error .incompleteHeader

/-! ## How a step runs an instruction -/

/-- A step whose event is the Command Receiver's, where its guard holds and the front of `RXFIFO` decodes to `i`, is
`exec i` on the state without the header's bytes, with the turn counted and the script one event shorter. -/
def Obligations.StepRunsDecodedHeader : Prop :=
  ∀ (s : State) (i : Instr) (rest : List Byte),
    nextEvent s = .rxHeader → s.initDone = true → s.dispCmd = .none → decode s.rxfifo = .ok (i, rest) →
      step s = exec i { s with rxfifo := rest, script := s.script.tail, turns := s.turns + 1 }

/-- A dispatcher's action step, where its guard holds, is `exec` of the claimed command, with the turn counted and the
script one event shorter. -/
def Obligations.StepRunsClaimedCommand : Prop :=
  ∀ (s u : State), s.initDone = true → u = { s with script := s.script.tail, turns := s.turns + 1 } →
    (nextEvent s = .execRecvRate → s.dispCmd = .receiveRate → 2 ≤ s.rxfifo.length →
      step s = exec (.receiveRate s.pendLen) u) ∧
    (nextEvent s = .execSendRate → s.dispCmd = .sendRate → step s = exec (.sendRate s.pendLen) u) ∧
    (nextEvent s = .execRecvWave → s.dispCmd = .receiveWaveform → 2 ≤ s.rxfifo.length →
      step s = exec (.receiveWaveform s.pendLen) u) ∧
    (nextEvent s = .execSendWave → s.dispCmd = .sendWaveform → step s = exec (.sendWaveform s.pendLen) u)

/-! ## The Command Receiver -/

/-- The parse step, whole: three bytes popped, the record published, the status set, the acknowledge sent, nothing else
changed (40_header_parse.md R78). -/
def Obligations.HeaderParsePublishesRecord : Prop :=
  ∀ (s : State) (b0 b1 b2 : Byte) (rest : List Byte),
    nextEvent s = .rxHeader → s.initDone = true → s.dispCmd = .none → s.rxfifo = b0 :: b1 :: b2 :: rest →
      step s = .next { s with
        rxfifo := rest
        pendCmd := decodeCmd b0
        pendLen := le16 b1 b2
        rxstat := true
        acks := s.acks ++ [.rxIrq]
        script := s.script.tail
        turns := s.turns + 1 }

/-- The command a header is stored as has the id's own code for ids 0 to 4 and the code of `NONE` for ids 5 to 255, and every
id has one (R65). -/
def Obligations.StoredCommandIsDecodedId : Prop :=
  ∀ (s : State) (b0 b1 b2 : Byte) (rest : List Byte),
    nextEvent s = .rxHeader → s.initDone = true → s.dispCmd = .none → s.rxfifo = b0 :: b1 :: b2 :: rest →
      ∃ t, step s = .next t ∧ t.pendCmd.code.toNat = if b0.toNat ≤ 4 then b0.toNat else 0

/-- The length field is stored as assembled, low byte first, for every id byte (30_encoding.md R66). -/
def Obligations.LengthFieldStoredForEveryId : Prop :=
  ∀ (s : State) (b0 b1 b2 : Byte) (rest : List Byte),
    nextEvent s = .rxHeader → s.initDone = true → s.dispCmd = .none → s.rxfifo = b0 :: b1 :: b2 :: rest →
      ∃ t, step s = .next t ∧ t.pendLen.toNat = b1.toNat + 256 * b2.toNat

/-- The Command Receiver's step is enabled exactly when start-up is over, at least three bytes are present and the
dispatcher is not busy; otherwise its event changes nothing (R76, R77). -/
def Obligations.ReceiverEnabledExactly : Prop :=
  ∀ s : State,
    (Event.rxHeader.enabled s = true ↔ s.initDone = true ∧ 3 ≤ s.rxfifo.length ∧ s.dispCmd = .none) ∧
    (nextEvent s = .rxHeader → ¬ (s.initDone = true ∧ 3 ≤ s.rxfifo.length ∧ s.dispCmd = .none) →
      step s = .next { s with script := s.script.tail, turns := s.turns + 1 })

/-- A header parsed before the claim of an earlier one replaces it: after two parses and a claim, the state is the one the
second header alone decides, and the first has left only its acknowledge (R82). -/
def Obligations.UnclaimedHeaderIsOverwritten : Prop :=
  ∀ (s : State) (a0 a1 a2 b0 b1 b2 : Byte) (rest : List Byte) (more : List Event),
    s.initDone = true → s.dispCmd = .none → s.rxfifo = [a0, a1, a2, b0, b1, b2] ++ rest →
    s.script = [.rxHeader, .rxHeader, .claim] ++ more →
      runFor 3 s = .next { s with
        rxfifo := rest
        pendCmd := decodeCmd b0
        pendLen := le16 b1 b2
        rxstat := true
        dispCmd := decodeCmd b0
        xferIdx := if decodeCmd b0 = .none then s.xferIdx else 0
        acks := s.acks ++ [.rxIrq, .rxIrq]
        script := more
        turns := s.turns + 3 }

/-- The framing machine, byte by byte through one header, ends in the state the one parse step gives, and in `FR_WAIT`
(R81). -/
def Obligations.FramingMachineRefinesParse : Prop :=
  ∀ (f : Framing) (i : Instr) (rest : List Byte),
    f.fr = .wait → f.block.initDone = true → f.block.dispCmd = .none → decode f.block.rxfifo = .ok (i, rest) →
      (framingRun f).fr = .wait ∧ exec i (withRx rest f.block) = .next (framingRun f).block

/-! ## Every instruction's parse, and the commands that are ignored -/

/-- While the dispatcher polls, every instruction completes its parse: the stored command and the length are published.
For `NONE` and the invalid ids this is their whole effect (41_dispatch_commands.md R86, R95). -/
def Obligations.EveryInstructionPublishes : Prop :=
  ∀ (i : Instr) (s : State), i.wf = true → s.initDone = true → s.dispCmd = .none →
    exec i s = .next { s with
      pendCmd := decodeCmd i.idByte
      pendLen := i.lenField
      rxstat := true
      acks := s.acks ++ [.rxIrq] }

/-- `NONE` and every invalid id: published as `NONE` with their length, and a claim after that changes nothing, so that no
command starts (R86, R95, 60_exceptions.md R124). -/
def Obligations.IgnoredCommandsStartNothing : Prop :=
  ∀ (i : Instr) (s : State), i.wf = true → s.initDone = true → s.dispCmd = .none →
    (i.idByte = 0 ∨ 5 ≤ i.idByte.toNat) →
      ∃ t, exec i s = .next t ∧
        t = { s with pendCmd := .none, pendLen := i.lenField, rxstat := true, acks := s.acks ++ [.rxIrq] } ∧
        (nextEvent t = .claim → step t = .next { t with script := t.script.tail, turns := t.turns + 1 })

/-- The model's choice (log 4): while another command is claimed, `exec` of an instruction changes nothing. The machine itself
never runs `exec` there, since the Command Receiver is disabled and a dispatcher step runs the claimed command. -/
def Obligations.OtherClaimedCommandHolds : Prop :=
  ∀ (i : Instr) (s : State), i.wf = true → s.dispCmd ≠ .none → s.dispCmd ≠ decodeCmd i.idByte →
    exec i s = .next s

/-- The frame of `NONE` and of the invalid ids, in every state: only the pending record, the receive status and the
acknowledges can change, and every slot of both buffers reads as before. -/
def Obligations.IgnoredCommandsFrame : Prop :=
  ∀ (i : Instr) (s t : State), i.wf = true → (i.idByte = 0 ∨ 5 ≤ i.idByte.toNat) → exec i s = .next t →
    t = { s with pendCmd := t.pendCmd, pendLen := t.pendLen, rxstat := t.rxstat, acks := t.acks } ∧
    (∀ a, capSlot t a = capSlot s a) ∧ ∀ a, playSlot t a = playSlot s a

/-! ## The dispatcher and the rate commands -/

/-- `Claim`: the pending command becomes the dispatcher's with the index at 0; polling `NONE` changes nothing
(R85, R86). -/
def Obligations.ClaimTakesPendingCommand : Prop :=
  ∀ s : State, nextEvent s = .claim → s.initDone = true → s.dispCmd = .none →
    step s = .next { s with
      dispCmd := s.pendCmd
      xferIdx := if s.pendCmd = .none then s.xferIdx else 0
      script := s.script.tail
      turns := s.turns + 1 }

/-- `RECEIVE_RATE`, claimed, with its payload present: a valid rate sets length and period together, any other changes
neither, and both end in the release; with fewer than two bytes present the dispatcher waits (R87, R88). -/
def Obligations.ReceiveRateSetsLengthAndPeriod : Prop :=
  ∀ (len : Len) (s : State), s.initDone = true → s.dispCmd = .receiveRate →
    (∀ (p0 p1 : Byte) (rest : List Byte) (n : Nat),
      s.rxfifo = p0 :: p1 :: rest → n = p0.toNat + 256 * p1.toNat →
        exec (.receiveRate len) s = .next { s with
          rxfifo := rest
          actlen := if 1 ≤ n ∧ n ≤ 100 then BitVec.ofNat _ n else s.actlen
          acqPrd := if 1 ≤ n ∧ n ≤ 100 then BitVec.ofNat _ (Config.clockBaseHz / (50 * n) - 1) else s.acqPrd
          acks := s.acks ++ [.rxStatus]
          rxstat := false
          pendCmd := .none
          dispCmd := .none
          xferIdx := 0 }) ∧
    (s.rxfifo.length < 2 → exec (.receiveRate len) s = .next s)

/-- `SEND_RATE`, claimed: the active length goes out, low byte first, no byte is consumed, and the command is released
(R89, R90). -/
def Obligations.SendRateAnswersActiveLength : Prop :=
  ∀ (len : Len) (s : State), s.initDone = true → s.dispCmd = .sendRate →
    ∃ b0 b1 : Byte, b0.toNat + 256 * b1.toNat = s.actlen.toNat ∧
      exec (.sendRate len) s = .next { s with
        tx := s.tx ++ [b0, b1]
        acks := s.acks ++ [.rxStatus]
        rxstat := false
        pendCmd := .none
        dispCmd := .none
        xferIdx := 0 }

/-- The frame of the rate commands, in every state: no cursor, counter, request, gain or buffer slot changes, and the
playback timer is untouched (R88, R90; 43_rate_control.md R116). -/
def Obligations.RateCommandsFrame : Prop :=
  ∀ (i : Instr) (len : Len) (s t : State), i = .receiveRate len ∨ i = .sendRate len → exec i s = .next t →
    t = { s with
      pendCmd := t.pendCmd, pendLen := t.pendLen, rxstat := t.rxstat, dispCmd := t.dispCmd, xferIdx := t.xferIdx
      actlen := t.actlen, acqPrd := t.acqPrd, rxfifo := t.rxfifo, tx := t.tx, acks := t.acks } ∧
    (i = .receiveRate len → t.tx = s.tx) ∧
    (i = .sendRate len → t.actlen = s.actlen ∧ t.acqPrd = s.acqPrd ∧ t.rxfifo = s.rxfifo) ∧
    (∀ a, capSlot t a = capSlot s a) ∧ ∀ a, playSlot t a = playSlot s a

/-- A valid rate that `RECEIVE_RATE` sets is what a `SEND_RATE` after it answers (source property of R89), on one scripted
schedule (log 1). -/
def Obligations.RateReadsBackAsSet : Prop :=
  ∀ (s : State) (p0 p1 l0 l1 : Byte) (more : List Event),
    s.initDone = true → s.dispCmd = .receiveRate → s.rxfifo = [p0, p1] →
    1 ≤ p0.toNat + 256 * p1.toNat → p0.toNat + 256 * p1.toNat ≤ 100 →
    s.script = [.execRecvRate, .hostPush 2, .hostPush l0, .hostPush l1, .rxHeader, .claim, .execSendRate] ++ more →
      ∃ t, runFor 7 s = .next t ∧ t.tx = s.tx ++ [p0, p1] ∧
        t.actlen.toNat = p0.toNat + 256 * p1.toNat ∧ t.dispCmd = .none ∧ t.pendCmd = .none ∧ t.rxfifo = []

/-- In a quiescent state nothing of the Command Receiver or the dispatcher changes anything (00_scope.md R12). -/
def Obligations.QuiescentBlockWaitsForHost : Prop :=
  ∀ s : State, s.Quiescent →
    nextEvent s ∈ [.rxHeader, .claim, .execRecvRate, .execSendRate, .execRecvWave, .execSendWave] →
      step s = .next { s with script := s.script.tail, turns := s.turns + 1 }

/-- A receive command without two payload bytes waits: the events of the dispatcher and of the Command Receiver change
nothing, and neither does `exec` of the claimed command (R98). That `exec` of the other receive command, which is not
claimed, changes nothing either is the model's choice (log 4). -/
def Obligations.ReceiveCommandsWaitForPayload : Prop :=
  ∀ (s : State), (s.dispCmd = .receiveRate ∨ s.dispCmd = .receiveWaveform) → s.rxfifo.length < 2 →
    (nextEvent s ∈ [.rxHeader, .claim, .execRecvRate, .execSendRate, .execRecvWave, .execSendWave] →
      step s = .next { s with script := s.script.tail, turns := s.turns + 1 }) ∧
    ∀ len, exec (.receiveRate len) s = .next s ∧ exec (.receiveWaveform len) s = .next s

/-! ## The waveform commands -/

/-- `RECEIVE_WAVEFORM`, claimed, with two payload bytes present and the index in range: the sample goes to its slot and to
no other, and the last slot releases; with fewer than two bytes present the dispatcher waits (R92). -/
def Obligations.ReceiveWaveformStoresSample : Prop :=
  ∀ (len : Len) (s : State), s.initDone = true → s.dispCmd = .receiveWaveform → s.xferIdx.toNat < 200 →
    (∀ (p0 p1 : Byte) (rest : List Byte), s.rxfifo = p0 :: p1 :: rest →
      ∃ t, exec (.receiveWaveform len) s = .next t ∧
        (playSlot t s.xferIdx.toNat).toNat = p0.toNat + 256 * p1.toNat ∧
        (∀ a, a ≠ s.xferIdx.toNat → playSlot t a = playSlot s a) ∧
        t = if s.xferIdx.toNat = 199 then
          { s with
            rxfifo := rest, play := t.play, acks := s.acks ++ [.rxStatus], rxstat := false, pendCmd := .none
            dispCmd := .none, xferIdx := 0 }
        else { s with rxfifo := rest, play := t.play, xferIdx := BitVec.ofNat _ (s.xferIdx.toNat + 1) }) ∧
    (s.rxfifo.length < 2 → exec (.receiveWaveform len) s = .next s)

/-- `SEND_WAVEFORM`, claimed, with the index in range: the slot's sample goes out, low byte first, and the last slot
releases (R94). -/
def Obligations.SendWaveformEmitsSample : Prop :=
  ∀ (len : Len) (s : State), s.initDone = true → s.dispCmd = .sendWaveform → s.xferIdx.toNat < 100 →
    ∃ b0 b1 : Byte, b0.toNat + 256 * b1.toNat = (capSlot s s.xferIdx.toNat).toNat ∧
      exec (.sendWaveform len) s = .next (
        if s.xferIdx.toNat = 99 then
          { s with
            tx := s.tx ++ [b0, b1], acks := s.acks ++ [.rxStatus], rxstat := false, pendCmd := .none
            dispCmd := .none, xferIdx := 0 }
        else { s with tx := s.tx ++ [b0, b1], xferIdx := BitVec.ofNat _ (s.xferIdx.toNat + 1) })

/-- The frame of the waveform commands, in every state: no rate register, cursor, counter, request or gain changes;
`SEND_WAVEFORM` writes no slot; `RECEIVE_WAVEFORM` writes at most the slot `XFER_IDX` of `PLAY`, and only while it is
claimed (R92, R94). -/
def Obligations.WaveformCommandsFrame : Prop :=
  ∀ (i : Instr) (len : Len) (s t : State), i = .receiveWaveform len ∨ i = .sendWaveform len → exec i s = .next t →
    t = { s with
      pendCmd := t.pendCmd, pendLen := t.pendLen, rxstat := t.rxstat, dispCmd := t.dispCmd, xferIdx := t.xferIdx
      play := t.play, rxfifo := t.rxfifo, tx := t.tx, acks := t.acks } ∧
    (i = .receiveWaveform len → t.tx = s.tx) ∧
    (i = .sendWaveform len → t.rxfifo = s.rxfifo ∧ ∀ a, playSlot t a = playSlot s a) ∧
    (∀ a, capSlot t a = capSlot s a) ∧
    ∀ a, a ≠ s.xferIdx.toNat ∨ s.dispCmd ≠ .receiveWaveform → playSlot t a = playSlot s a

/-- An upload, from an idle block with an empty FIFO, its bytes pushed in pace: after it every slot of `PLAY` holds its
sample of the waveform, the command is released, and nothing else has changed; in particular the playback cursor and the
capture side (R91). -/
def Obligations.UploadFillsPlaybackBuffer : Prop :=
  ∀ (s : State) (len : Len) (w : List Sample) (more : List Event),
    s.initDone = true → s.dispCmd = .none → s.rxfifo = [] → w.length = 200 →
    s.script = uploadSchedule len w ++ more →
      ∃ t : State, runFor 605 s = .next t ∧
        (∀ (k : Nat) (hk : k < w.length), playSlot t k = w[k]) ∧
        (∀ k, 200 ≤ k → playSlot t k = playSlot s k) ∧
        t = { s with
          pendCmd := .none, pendLen := len, rxstat := false, dispCmd := .none, xferIdx := 0, play := t.play
          acks := s.acks ++ [.rxIrq, .rxStatus], script := more, turns := s.turns + 605 }

/-- A download from its claim: all 100 slots of `CAP` go out in order, two bytes each, low byte first, whatever the active
length and the cursor are; the command is released, and nothing else has changed (R93). -/
def Obligations.DownloadSendsWholeCaptureBuffer : Prop :=
  ∀ (s : State) (more : List Event),
    s.initDone = true → s.dispCmd = .none → s.pendCmd = .sendWaveform →
    s.script = .claim :: List.replicate 100 .execSendWave ++ more →
      runFor 101 s = .next { s with
        tx := s.tx ++ wireBytes ((List.range 100).map (capSlot s))
        rxstat := false
        pendCmd := .none
        dispCmd := .none
        xferIdx := 0
        acks := s.acks ++ [.rxStatus]
        script := more
        turns := s.turns + 101 }

/-! ## Rules of the whole dispatcher -/

/-- The dispatcher's state machine: what `DISP_CMD` is after any step, and so no other transition (R84; the wait of R98
and the reset of R142 included). -/
def Obligations.DispatcherTransitions : Prop :=
  ∀ s t : State, step s = .next t →
    t.dispCmd =
      match nextEvent s with
      | .claim => if s.initDone = true ∧ s.dispCmd = .none then s.pendCmd else s.dispCmd
      | .execRecvRate =>
        if s.initDone = true ∧ s.dispCmd = .receiveRate ∧ 2 ≤ s.rxfifo.length then .none else s.dispCmd
      | .execSendRate => if s.initDone = true ∧ s.dispCmd = .sendRate then .none else s.dispCmd
      | .execRecvWave =>
        if s.initDone = true ∧ s.dispCmd = .receiveWaveform ∧ 2 ≤ s.rxfifo.length ∧ s.xferIdx.toNat = 199
        then .none else s.dispCmd
      | .execSendWave =>
        if s.initDone = true ∧ s.dispCmd = .sendWaveform ∧ s.xferIdx.toNat = 99 then .none else s.dispCmd
      | .reset => .none
      | _ => s.dispCmd

/-- A published command is claimed once. A command that ends leaves `NONE` in the record, so that the next claim finds
nothing; while a command is claimed there is no claim (R97). And in a run that is paced (R147) and weakly fair (R131), every
command that is pending while the dispatcher polls is claimed, with no reset in the run. -/
def Obligations.ReleasedCommandNotClaimedAgain : Prop :=
  (∀ (i : Instr) (s t : State), exec i s = .next t → s.dispCmd ≠ .none → t.dispCmd = .none →
    t.pendCmd = .none ∧ claim t = t) ∧
  (∀ s : State, nextEvent s = .claim → s.dispCmd ≠ .none →
    step s = .next { s with script := s.script.tail, turns := s.turns + 1 }) ∧
  ∀ (schedule : Nat → Event) (r : Nat → State) (n : Nat),
    IsRun schedule r → WeaklyFair schedule r → Paced schedule r → (∀ k, schedule k ≠ .reset) →
    (r n).initDone = true → (r n).dispCmd = .none → (r n).pendCmd ≠ .none →
      ∃ k, n ≤ k ∧ schedule k = .claim ∧ (r k).dispCmd = .none ∧ (r (k + 1)).dispCmd = (r n).pendCmd

/-- The only bytes ever transmitted are the two of a `SEND_RATE` and the two of each step of a `SEND_WAVEFORM`: any other
step but a reset leaves `TX` as it is (R99). -/
def Obligations.OnlyTheTwoAnswersAreTransmitted : Prop :=
  ∀ s t : State, step s = .next t → nextEvent s ≠ .reset →
    t.tx = s.tx ∨
    (nextEvent s = .execSendRate ∧ s.dispCmd = .sendRate ∧ t.tx = s.tx ++ wireBytes [s.actlen]) ∨
    (nextEvent s = .execSendWave ∧ s.dispCmd = .sendWaveform ∧
      t.tx = s.tx ++ wireBytes [capSlot s s.xferIdx.toNat])

/-- The status bit changes only by a parse, which sets it, and by the release of a claimed command, which clears it, reset
apart (10_state.md R17). -/
def Obligations.ReceiveStatusSetByParseClearedByRelease : Prop :=
  ∀ s t : State, step s = .next t → nextEvent s ≠ .reset → t.rxstat ≠ s.rxstat →
    (t.rxstat = true ∧ nextEvent s = .rxHeader ∧ s.dispCmd = .none) ∨
    (t.rxstat = false ∧ s.dispCmd ≠ .none ∧ t.dispCmd = .none)

/-! ## The host's byte -/

/-- A byte that arrives after start-up is appended while there is room and dropped with the overrun mark set otherwise
(40_header_parse.md R75). -/
def Obligations.PushedByteIsQueuedOrOverruns : Prop :=
  ∀ (s : State) (b : Byte), nextEvent s = .hostPush b → s.initDone = true →
    step s = .next (
      if s.rxfifo.length < Config.rxFifoDepth then
        { s with rxfifo := s.rxfifo ++ [b], script := s.script.tail, turns := s.turns + 1 }
      else { s with rxOverrun := true, script := s.script.tail, turns := s.turns + 1 })

/-- The overrun mark: set only by a byte that finds the FIFO full, cleared only by a reset (10_state.md R20). -/
def Obligations.OverrunMarkIsSticky : Prop :=
  ∀ s t : State, step s = .next t →
    (nextEvent s = .reset → t.rxOverrun = false) ∧
    (nextEvent s ≠ .reset →
      (t.rxOverrun = true ↔
        s.rxOverrun = true ∨
          ((∃ b, nextEvent s = .hostPush b) ∧ s.initDone = true ∧ Config.rxFifoDepth ≤ s.rxfifo.length)))

/-! ## The engines -/

/-- `NextIdx`: one further below the last index, 0 from the last index, the remainder in general; always inside the range
(42_circular_buffer.md R100). -/
def Obligations.IndexAdvanceWraps : Prop :=
  ∀ i n : Nat, 1 ≤ n →
    nextIdx i n = (i + 1) % n ∧ nextIdx i n < n ∧ (i + 1 < n → nextIdx i n = i + 1) ∧ (i + 1 = n → nextIdx i n = 0)

/-- The acquisition tick, whole: the sample goes to the cursor's slot and to no other, then the cursor advances modulo the
active length; the request is cleared and both acknowledges go out (R103). -/
def Obligations.AcqTickStoresThenAdvances : Prop :=
  ∀ (s : State) (x : Sample),
    nextEvent s = .acqTick x → s.initDone = true → s.acqReq = true →
    1 ≤ s.actlen.toNat → s.actlen.toNat ≤ 100 → s.capIdx.toNat < 100 →
      ∃ t, step s = .next t ∧ capSlot t s.capIdx.toNat = x ∧
        (∀ a, a ≠ s.capIdx.toNat → capSlot t a = capSlot s a) ∧
        t.capIdx.toNat = (s.capIdx.toNat + 1) % s.actlen.toNat ∧
        t = { s with
          cap := t.cap, capIdx := t.capIdx, acqReq := false, acks := s.acks ++ [.conv, .acqTmr]
          script := s.script.tail, turns := s.turns + 1 }

/-- Acquisition over any number of ticks at one active length: the cursor's place, the last sample each active slot was
given, every other slot unchanged; and, once the buffer has been gone round, the last samples in order from the cursor
on (R104). The ticks are raised by the model without time (R121; log 15). -/
def Obligations.AcquisitionKeepsLastSamples : Prop :=
  ∀ (s : State) (xs : List Sample) (n c : Nat),
    s.initDone = true → s.actlen.toNat = n → s.capIdx.toNat = c → n ≤ 100 → c < n →
      ∃ t, serveAcq xs s = .next t ∧ t.actlen = s.actlen ∧ t.capIdx.toNat = (c + xs.length) % n ∧
        (∀ (m : Nat) (hm : m < xs.length), (∀ k, m < k → k < xs.length → (c + k) % n ≠ (c + m) % n) →
          capSlot t ((c + m) % n) = xs[m]) ∧
        (∀ a, (∀ k, k < xs.length → (c + k) % n ≠ a) → capSlot t a = capSlot s a) ∧
        ∀ (k : Nat) (hk : k < n) (hn : n ≤ xs.length),
          capSlot t ((t.capIdx.toNat + k) % n) = xs[xs.length - n + k]

/-- Shortening the length under a cursor beyond it: the next tick writes the one slot outside the new range where the cursor
stands and brings the cursor inside (R105). -/
def Obligations.ShorteningStrandsOneSample : Prop :=
  ∀ (s : State) (p0 p1 : Byte) (rest : List Byte) (x : Sample) (more : List Event) (n : Nat),
    s.initDone = true → s.dispCmd = .receiveRate → s.rxfifo = p0 :: p1 :: rest → n = p0.toNat + 256 * p1.toNat →
    1 ≤ n → n ≤ s.capIdx.toNat → s.capIdx.toNat < 100 → s.acqReq = true →
    s.script = [.execRecvRate, .acqTick x] ++ more →
      ∃ t, runFor 2 s = .next t ∧ t.actlen.toNat = n ∧ capSlot t s.capIdx.toNat = x ∧
        (∀ a, a ≠ s.capIdx.toNat → capSlot t a = capSlot s a) ∧
        t.capIdx.toNat = (s.capIdx.toNat + 1) % n ∧ t.capIdx.toNat < n

/-- The playback tick, whole: the converted product goes out, the cursor advances modulo 200, the request is cleared and the
acknowledge goes out (R107). Where the product is a NaN some word goes out, and everything else happens as otherwise
(R110, U6; the word is the model's free value, log 8). -/
def Obligations.PlayTickEmitsScaledSample : Prop :=
  ∀ s : State,
    nextEvent s = .playTick → s.initDone = true → s.playReq = true → s.playIdx.toNat < 200 →
      ∃ (t : State) (y : Sample), step s = .next t ∧
        (∀ z, outConv (gainMul (playSlot s s.playIdx.toNat) s.gain) = some z → y = z) ∧
        t = { s with
          dac := s.dac ++ [y]
          playIdx := BitVec.ofNat _ ((s.playIdx.toNat + 1) % 200)
          playReq := false
          acks := s.acks ++ [.playTmr]
          nanDraws := t.nanDraws
          script := s.script.tail
          turns := s.turns + 1 }

/-- Playback over any number of ticks at one gain: tick `j` puts out the converted product of slot `(p0 + j) mod 200`, where
the product is no NaN; at gain 1.0 that word is the sample itself (R108). The ticks are raised by the model without time
(R121; log 15). -/
def Obligations.PlaybackReproducesBuffer : Prop :=
  (∀ (s : State) (n : Nat), s.initDone = true → s.playIdx.toNat < 200 →
    ∃ (t : State) (ys : List Sample), servePlay n s = .next t ∧ t.playIdx.toNat = (s.playIdx.toNat + n) % 200 ∧
      (∀ a, playSlot t a = playSlot s a) ∧ t.gain = s.gain ∧ t.dac = s.dac ++ ys ∧ ys.length = n ∧
      ∀ (j : Nat) (hj : j < ys.length) (z : Sample),
        outConv (gainMul (playSlot s ((s.playIdx.toNat + j) % 200)) s.gain) = some z → ys[j] = z) ∧
  ∀ x : Sample, outConv (gainMul x 0x3F800000) = some x

/-- The products the spec lists as exact: by 1.0, by both zeros, by 0.5, by -1.0 and by 2.0 (R109). -/
def Obligations.ExactGainProducts : Prop :=
  ∀ x : Sample,
    binary32Value (gainMul x 0x3F800000) = some (toSigned16 x : ℚ) ∧
    binary32Value (gainMul x 0x00000000) = some 0 ∧
    binary32Value (gainMul x 0x80000000) = some 0 ∧
    binary32Value (gainMul x 0x3F000000) = some ((toSigned16 x : ℚ) / 2) ∧
    binary32Value (gainMul x 0xBF800000) = some (-(toSigned16 x : ℚ)) ∧
    binary32Value (gainMul x 0x40000000) = some (2 * (toSigned16 x : ℚ))

/-- `GainMul` is the IEEE product, rounded once to nearest with ties to even (R109). By a finite gain it is never a NaN; it is
the infinity of the product's sign exactly when the exact product is at least half a unit of the last place above the
largest finite number; otherwise it has binary32's canonical form and is the exact product, or differs from it by at most
half a unit of its last place, by exactly half only with an even significand, and, at a power of two, by at most half
the smaller unit below it. An infinite gain gives an infinity, or a NaN for the sample 0; a NaN gives a NaN. -/
def Obligations.GainProductRoundedToNearestEven : Prop :=
  (∀ (x : Sample) (g : Word) (gneg neg : Bool) (gm : Nat) (ge : Int) (v : Nat),
    binary32OfBits g = .finite gneg gm ge → v = (toSigned16 x).natAbs * gm →
    neg = (gneg != decide (toSigned16 x < 0)) →
      if (2 ^ 25 - 1) * 2 ^ (103 - ge).toNat ≤ v * 2 ^ (ge - 103).toNat then gainMul x g = .inf neg
      else ∃ (m : Nat) (e : Int), gainMul x g = .finite neg m e ∧
        m < 2 ^ 24 ∧ -149 ≤ e ∧ e ≤ 104 ∧ (2 ^ 23 ≤ m ∨ e = -149) ∧
        (e ≤ ge → m = v * 2 ^ (ge - e).toNat) ∧
        (ge < e → 2 * m * 2 ^ (e - ge).toNat ≤ 2 * v + 2 ^ (e - ge).toNat ∧
          2 * v ≤ 2 * m * 2 ^ (e - ge).toNat + 2 ^ (e - ge).toNat ∧
          (2 * m * 2 ^ (e - ge).toNat = 2 * v + 2 ^ (e - ge).toNat ∨
            2 * v = 2 * m * 2 ^ (e - ge).toNat + 2 ^ (e - ge).toNat → m % 2 = 0) ∧
          (m = 2 ^ 23 → -149 < e → 4 * m * 2 ^ (e - ge).toNat ≤ 4 * v + 2 ^ (e - ge).toNat))) ∧
  (∀ (x : Sample) (g : Word) (gneg : Bool), binary32OfBits g = .inf gneg →
    gainMul x g = if toSigned16 x = 0 then .nan else .inf (gneg != decide (toSigned16 x < 0))) ∧
  ∀ (x : Sample) (g : Word), binary32OfBits g = .nan → gainMul x g = .nan

/-- `OutConv`: a NaN has no defined word; infinities and numbers beyond the range give the nearer bound; every other number
loses its fraction (R110). -/
def Obligations.OutputSaturatesAndTruncates : Prop :=
  outConv .nan = none ∧
  (∀ neg, outConv (.inf neg) = some (if neg then 0x8000 else 0x7FFF)) ∧
  ∀ (p : Binary32) (v : ℚ), binary32Value p = some v →
    ∃ y : Sample, outConv p = some y ∧
      toSigned16 y =
        if 32768 ≤ v then 32767 else if v ≤ -32769 then -32768 else if 0 ≤ v then ⌊v⌋ else ⌈v⌉

/-- The two engines' service steps commute, but for the order in which their acknowledges go out
(60_exceptions.md R129, R134). -/
def Obligations.EngineTicksCommute : Prop :=
  ∀ (s a b ab ba : State) (x : Sample),
    acqTick x s = .next a → playTick a = .next ab → playTick s = .next b → acqTick x b = .next ba →
      ba = { ab with acks := s.acks ++ [.playTmr, .conv, .acqTmr] } ∧ ab.acks = s.acks ++ [.conv, .acqTmr, .playTmr]

/-! ## The timers and the rate -/

/-- The period formula for a valid length: the quotient is at least 1, so that the subtraction does not wrap, and the
period fits its register (43_rate_control.md R112). -/
def Obligations.PeriodFormulaFitsRegister : Prop :=
  ∀ n : Nat, 1 ≤ n → n ≤ 100 →
    acqPeriod n + 1 = Config.clockBaseHz / (50 * n) ∧ (acqPeriodWord n).toNat = acqPeriod n

/-- A clock edge, whole: each timer at zero reloads its period and raises its request, and otherwise counts down
(R118). -/
def Obligations.ClockEdgeCountsAndReloads : Prop :=
  ∀ s : State, nextEvent s = .clockEdge → s.initDone = true →
    step s = .next { s with
      acqCnt := if s.acqCnt = 0 then s.acqPrd else BitVec.ofNat _ (s.acqCnt.toNat - 1)
      acqReq := if s.acqCnt = 0 then true else s.acqReq
      playCnt := if s.playCnt = 0 then s.playPrd else BitVec.ofNat _ (s.playCnt.toNat - 1)
      playReq := if s.playCnt = 0 then true else s.playReq
      script := s.script.tail
      turns := s.turns + 1 }

/-- A counter that stands at `c` expires on the `c + 1`-th edge and not before, and is then at its period again: a period
value `P` gives one tick in every `P + 1` edges, for both timers (R113, R118). -/
def Obligations.TimerExpiresEveryPeriodPlusOneEdges : Prop :=
  ∀ s : State,
    (∀ k, k ≤ s.acqCnt.toNat →
      (clockEdges k s).acqCnt.toNat = s.acqCnt.toNat - k ∧ (clockEdges k s).acqReq = s.acqReq) ∧
    (clockEdges (s.acqCnt.toNat + 1) s).acqCnt = s.acqPrd ∧ (clockEdges (s.acqCnt.toNat + 1) s).acqReq = true ∧
    (∀ k, k ≤ s.playCnt.toNat →
      (clockEdges k s).playCnt.toNat = s.playCnt.toNat - k ∧ (clockEdges k s).playReq = s.playReq) ∧
    (clockEdges (s.playCnt.toNat + 1) s).playCnt = s.playPrd ∧ (clockEdges (s.playCnt.toNat + 1) s).playReq = true

/-- A tick that expires while its request is pending is absorbed, on either timer: the request stays, and one service clears
it, so that one tick runs where two were due (R119; 10_state.md R18, R19). The second service event finds no request and
changes nothing (log 2). -/
def Obligations.PendingTickAbsorbsTheNext : Prop :=
  (∀ (s : State) (x : Sample) (more : List Event),
    s.initDone = true → s.acqReq = true → s.acqCnt = 0 → 1 ≤ s.actlen.toNat → s.actlen.toNat ≤ 100 →
    s.capIdx.toNat < 100 → s.script = [.clockEdge, .acqTick x, .acqTick x] ++ more →
      ∃ t, runFor 3 s = .next t ∧ t.acqReq = false ∧
        t.capIdx.toNat = (s.capIdx.toNat + 1) % s.actlen.toNat ∧ t.acks = s.acks ++ [.conv, .acqTmr]) ∧
  ∀ (s : State) (more : List Event),
    s.initDone = true → s.playReq = true → s.playCnt = 0 → s.playIdx.toNat < 200 →
    s.script = [.clockEdge, .playTick, .playTick] ++ more →
      ∃ t, runFor 3 s = .next t ∧ t.playReq = false ∧ t.playIdx.toNat = (s.playIdx.toNat + 1) % 200 ∧
        t.dac.length = s.dac.length + 1 ∧ t.acks = s.acks ++ [.playTmr]

/-- Length and period change together and only by a claimed `RECEIVE_RATE`, and that step leaves the running count, the
request and the cursor, and the whole playback timer, alone (R115, R116). -/
def Obligations.LengthAndPeriodChangeTogether : Prop :=
  ∀ s t : State, step s = .next t → nextEvent s ≠ .reset → (t.actlen ≠ s.actlen ∨ t.acqPrd ≠ s.acqPrd) →
    nextEvent s = .execRecvRate ∧ s.dispCmd = .receiveRate ∧ t.acqPrd = acqPeriodWord t.actlen.toNat ∧
    t.acqCnt = s.acqCnt ∧ t.acqReq = s.acqReq ∧ t.capIdx = s.capIdx ∧ t.playPrd = s.playPrd ∧
    t.playCnt = s.playCnt ∧ t.playReq = s.playReq

/-- The model without time covers the timed one (R121; log 15). Its two raises set their request after start-up and do
nothing before. After start-up a clock edge is, but for the counters, nothing, either raise, or both. And every step of
the machine is a run of steps of that model, from any state that differs in nothing but the counters and the schedule to
one that differs likewise. Where both raises are treated fairly and start-up stays complete, each request is raised again
and again. -/
def Obligations.UntimedModelCoversClockEdge : Prop :=
  (∀ s : State,
    performUntimed .raiseAcq s = .next (if s.initDone = true then { s with acqReq := true } else s) ∧
    performUntimed .raisePlay s = .next (if s.initDone = true then { s with playReq := true } else s)) ∧
  (∀ s : State, s.initDone = true →
    ∃ r : State, r ∈ [s, raiseAcq s, raisePlay s, raisePlay (raiseAcq s)] ∧
      clockEdge s = { r with acqCnt := (clockEdge s).acqCnt, playCnt := (clockEdge s).playCnt }) ∧
  (∀ s t a : State, step s = .next t → a.untimed = s.untimed →
    ∃ (us : List UntimedEvent) (b : State), runUntimed us a = .next b ∧ b.untimed = t.untimed) ∧
  ∀ (schedule : Nat → UntimedEvent) (r : Nat → State),
    IsUntimedRun schedule r → TimersKeepRunning schedule r → (∀ k, (r k).initDone = true) →
      ∀ n, (∃ m, n ≤ m ∧ (r m).acqReq = true) ∧ ∃ m, n ≤ m ∧ (r m).playReq = true

/-! ## Start-up, reset and the gain -/

/-- Before start-up is complete, only `Reset`, `InitDone` and `GainDrive` do anything; any other event of the block changes
nothing, and a pushed byte is outside the model (10_state.md R21; 70_reset_and_hazards.md R144; log 2, 3). -/
def Obligations.NothingRunsBeforeStartUp : Prop :=
  ∀ s : State, s.initDone = false → nextEvent s ≠ .reset → nextEvent s ≠ .initDone →
    (∀ g, nextEvent s ≠ .gainDrive g) →
      ((∃ b, nextEvent s = .hostPush b) ∧ step s = .refused .byteBeforeStartUp) ∨
      ((∀ b, nextEvent s ≠ .hostPush b) ∧
        step s = .next { s with script := s.script.tail, turns := s.turns + 1 })

/-- Three kinds of failing guards: a tick that is not requested, an action step of a command that is not the claimed one,
and a second `InitDone` change nothing (R88, R90, R92, R94, R103, R107, R145; log 2). -/
def Obligations.UnrequestedUnclaimedAndRepeatedEventsChangeNothing : Prop :=
  ∀ s : State,
    ((∃ x, nextEvent s = .acqTick x) ∧ s.acqReq = false) ∨ (nextEvent s = .playTick ∧ s.playReq = false) ∨
    (nextEvent s = .execRecvRate ∧ s.dispCmd ≠ .receiveRate) ∨ (nextEvent s = .execSendRate ∧ s.dispCmd ≠ .sendRate) ∨
    (nextEvent s = .execRecvWave ∧ s.dispCmd ≠ .receiveWaveform) ∨
    (nextEvent s = .execSendWave ∧ s.dispCmd ≠ .sendWaveform) ∨ (nextEvent s = .initDone ∧ s.initDone = true) →
      step s = .next { s with script := s.script.tail, turns := s.turns + 1 }

/-- `InitDone` sets `INIT_DONE` and nothing else (R145); `GainDrive` sets the gain and nothing else, at any time
(10_state.md R31). -/
def Obligations.StartUpAndGainEvents : Prop :=
  ∀ s : State,
    (nextEvent s = .initDone → s.initDone = false →
      step s = .next { s with initDone := true, script := s.script.tail, turns := s.turns + 1 }) ∧
    ∀ g, nextEvent s = .gainDrive g → step s = .next { s with gain := g, script := s.script.tail, turns := s.turns + 1 }

/-- `Reset`, from any state: every element at its reset value, the streams and the FIFO empty, the gain not written
(R142). The empty lists for the buffers say that no slot has been written since; the last four fields are the model's own
(log 5, 19). -/
def Obligations.ResetSetsEveryRegister : Prop :=
  ∀ s : State, nextEvent s = .reset →
    step s = .next {
      pendCmd := .none, pendLen := 0, rxstat := false, dispCmd := .none, xferIdx := 0
      actlen := 100, capIdx := 0, playIdx := 0
      acqPrd := acqPeriodWord 100, acqCnt := acqPeriodWord 100, acqReq := false
      playPrd := Config.playPeriodInit, playCnt := Config.playPeriodInit, playReq := false
      gain := s.gain, initDone := false, rxOverrun := false, cap := [], play := []
      rxfifo := [], tx := [], dac := [], acks := []
      resets := s.resets + 1, nanDraws := s.nanDraws, script := s.script.tail, turns := s.turns + 1 }

/-- The machine right after reset has the reset column of the state table (10_state.md R13); and every slot then reads as
this reset's own free value, which is the model's form of "unspecified" (R143; log 5). -/
def Obligations.ResetStateHasTableValues : Prop :=
  (State.reset.pendCmd = .none ∧ State.reset.pendLen = 0 ∧ State.reset.rxstat = false ∧ State.reset.dispCmd = .none ∧
    State.reset.xferIdx = 0 ∧ State.reset.actlen = 100 ∧ State.reset.capIdx = 0 ∧ State.reset.playIdx = 0 ∧
    State.reset.acqPrd = acqPeriodWord 100 ∧ State.reset.acqCnt = acqPeriodWord 100 ∧ State.reset.acqReq = false ∧
    State.reset.playPrd = Config.playPeriodInit ∧ State.reset.playCnt = Config.playPeriodInit ∧
    State.reset.playReq = false ∧ State.reset.initDone = false ∧ State.reset.rxOverrun = false ∧
    State.reset.rxfifo = [] ∧ State.reset.tx = [] ∧ State.reset.dac = [] ∧ State.reset.acks = []) ∧
  ∀ (s : State) (a : Nat),
    capSlot State.reset a = Config.capAtReset 0 a ∧ playSlot State.reset a = Config.playAtReset 0 a ∧
    capSlot (resetBlock s) a = Config.capAtReset (s.resets + 1) a ∧
    playSlot (resetBlock s) a = Config.playAtReset (s.resets + 1) a

/-! ## Invariants and rules of the whole machine -/

/-- The invariants of 10_state.md R41 and the canonical form of both memories hold right after reset. -/
def Obligations.InvariantHoldsAtReset : Prop := State.reset.Inv

/-- Every step keeps the invariants of 10_state.md R41 and the canonical form of both memories, from every state that has
them. -/
def Obligations.EveryStepKeepsInvariant : Prop :=
  ∀ s t : State, s.Inv → step s = .next t → t.Inv

/-- From a state with the invariants no step faults, and only a byte pushed before start-up is refused: no index is ever out
of range (20_memory.md R44). -/
def Obligations.NoStepFaultsUnderInvariant : Prop :=
  ∀ s : State, s.Inv →
    (∃ t, step s = .next t) ∨
      (s.initDone = false ∧ (∃ b, nextEvent s = .hostPush b) ∧ step s = .refused .byteBeforeStartUp)

/-- An index outside its buffer faults at the access, and an active length outside 1 to 100 is refused
(20_memory.md R44, U9). -/
def Obligations.IllegalIndexOrLengthStops : Prop :=
  (∀ (len : Len) (s : State), s.initDone = true → s.dispCmd = .receiveWaveform → 2 ≤ s.rxfifo.length →
    200 ≤ s.xferIdx.toNat → exec (.receiveWaveform len) s = .fault .playIndexOutOfRange) ∧
  (∀ (len : Len) (s : State), s.initDone = true → s.dispCmd = .sendWaveform → 100 ≤ s.xferIdx.toNat →
    exec (.sendWaveform len) s = .fault .capIndexOutOfRange) ∧
  (∀ (s : State) (x : Sample), nextEvent s = .acqTick x → s.initDone = true → s.acqReq = true →
    (step s = .refused .activeLengthIllegal ↔ ¬ (1 ≤ s.actlen.toNat ∧ s.actlen.toNat ≤ 100))) ∧
  (∀ (s : State) (x : Sample), nextEvent s = .acqTick x → s.initDone = true → s.acqReq = true →
    1 ≤ s.actlen.toNat → s.actlen.toNat ≤ 100 → 100 ≤ s.capIdx.toNat → step s = .fault .capIndexOutOfRange) ∧
  ∀ s : State, nextEvent s = .playTick → s.initDone = true → s.playReq = true → 200 ≤ s.playIdx.toNat →
    step s = .fault .playIndexOutOfRange

/-- Ownership: each shared element changes only by a step of the agents the table of 60_exceptions.md R136 names as its
writers, reset apart. -/
def Obligations.OnlyOwnersWriteSharedState : Prop :=
  ∀ s t : State, step s = .next t → nextEvent s ≠ .reset →
    (t.pendLen ≠ s.pendLen → nextEvent s = .rxHeader) ∧
    (t.pendCmd ≠ s.pendCmd →
      nextEvent s = .rxHeader ∨
      (nextEvent s ∈ [.execRecvRate, .execSendRate, .execRecvWave, .execSendWave] ∧
        s.dispCmd ≠ .none ∧ t.pendCmd = .none)) ∧
    (t.cap ≠ s.cap → ∃ x, nextEvent s = .acqTick x) ∧
    (t.capIdx ≠ s.capIdx → ∃ x, nextEvent s = .acqTick x) ∧
    (t.play ≠ s.play → nextEvent s = .execRecvWave ∧ s.dispCmd = .receiveWaveform) ∧
    (t.playIdx ≠ s.playIdx → nextEvent s = .playTick) ∧
    (t.actlen ≠ s.actlen ∨ t.acqPrd ≠ s.acqPrd → nextEvent s = .execRecvRate ∧ s.dispCmd = .receiveRate) ∧
    (t.gain ≠ s.gain → ∃ g, nextEvent s = .gainDrive g) ∧
    (t.dispCmd ≠ s.dispCmd ∨ t.xferIdx ≠ s.xferIdx →
      nextEvent s ∈ [.claim, .execRecvRate, .execSendRate, .execRecvWave, .execSendWave]) ∧
    (t.rxstat ≠ s.rxstat →
      nextEvent s ∈ [.rxHeader, .execRecvRate, .execSendRate, .execRecvWave, .execSendWave]) ∧
    (t.rxfifo ≠ s.rxfifo →
      (∃ b, nextEvent s = .hostPush b) ∨ (nextEvent s = .rxHeader ∧ s.dispCmd = .none) ∨
      (nextEvent s = .execRecvRate ∧ s.dispCmd = .receiveRate) ∨
      (nextEvent s = .execRecvWave ∧ s.dispCmd = .receiveWaveform)) ∧
    t.playPrd = s.playPrd
end

