-- ==== Sys2Proof/Laws/Operands.lean ====
section
/-!
SUPPORT. The operand forms, the index arithmetic and the parameters: what each function says, once.
-/

namespace Sys2Proof.Machine

/-! The widths. They are not tagged: a width stands in the type of a value, which is not to be rewritten. -/

theorem byteW_eq : Config.byteW = 8 := rfl
theorem idW_eq : Config.idW = 8 := rfl
theorem lenW_eq : Config.lenW = 16 := rfl
theorem cmdW_eq : Config.cmdW = 3 := rfl
theorem sampleW_eq : Config.sampleW = 16 := rfl
theorem rateW_eq : Config.rateW = 16 := rfl
theorem periodW_eq : Config.periodW = 32 := rfl
theorem gainW_eq : Config.gainW = 32 := rfl
theorem headerW_eq : Config.headerW = 24 := rfl
theorem capIdxW_eq : Config.capIdxW = 7 := rfl
theorem playIdxW_eq : Config.playIdxW = 8 := rfl
theorem xferW_eq : Config.xferW = 8 := rfl

@[simp] theorem captureCapacity_eq : Config.captureCapacity = 100 := rfl
@[simp] theorem playbackCapacity_eq : Config.playbackCapacity = 200 := rfl
@[simp] theorem capBase_eq : Config.capBase = 0 := rfl
@[simp] theorem playBase_eq : Config.playBase = 0 := rfl
@[simp] theorem bytesOf_idW : Config.bytesOf Config.idW = 1 := rfl
@[simp] theorem bytesOf_lenW : Config.bytesOf Config.lenW = 2 := rfl
@[simp] theorem bytesOf_rateW : Config.bytesOf Config.rateW = 2 := rfl
@[simp] theorem bytesOf_sampleW : Config.bytesOf Config.sampleW = 2 := rfl
@[simp] theorem headerSize_eq : Config.headerSize = 3 := rfl
@[simp] theorem clockLeast_eq : Config.clockLeast = 5000 := rfl

@[simp] theorem commandId_none : Config.commandId .none = 0 := rfl
@[simp] theorem commandId_receiveRate : Config.commandId .receiveRate = 1 := rfl
@[simp] theorem commandId_sendRate : Config.commandId .sendRate = 2 := rfl
@[simp] theorem commandId_receiveWaveform : Config.commandId .receiveWaveform = 3 := rfl
@[simp] theorem commandId_sendWaveform : Config.commandId .sendWaveform = 4 := rfl

/-- No two commands share an id (30_encoding.md R64). -/
theorem commandId_injective {c d : Cmd} : Config.commandId c = Config.commandId d → c = d := by
  cases c <;> cases d <;> decide

theorem byte_lt (b : Byte) : b.toNat < 256 := b.isLt

theorem len_lt (v : Len) : v.toNat < 65536 := v.isLt

theorem rate_lt (v : Rate) : v.toNat < 65536 := v.isLt

theorem sample_lt (v : Sample) : v.toNat < 65536 := v.isLt

theorem period_lt (v : Period) : v.toNat < 4294967296 := v.isLt

theorem capIndex_lt (v : CapIndex) : v.toNat < 128 := v.isLt

theorem playIndex_lt (v : PlayIndex) : v.toNat < 256 := v.isLt

theorem xferIndex_lt (v : XferIndex) : v.toNat < 256 := v.isLt

/-- A byte of 8 bits is its own 8-bit value. -/
theorem ofLe_one (b : Byte) : (ofLe [b] : BitVec 8) = b := by
  apply BitVec.eq_of_toNat_eq
  have := byte_lt b
  simp only [ofLe, leNat, BitVec.toNat_ofNat]
  omega

theorem le16_toNat (b0 b1 : Byte) : (le16 b0 b1 : BitVec 16).toNat = b0.toNat + 256 * b1.toNat := by
  have h0 := byte_lt b0
  have h1 := byte_lt b1
  simp only [le16, ofLe, leNat, BitVec.toNat_ofNat, byteW_eq]
  omega

theorem leBytes_length (n : Nat) : ∀ v, (leBytes n v).length = n := by
  induction n with
  | zero => intro v; rfl
  | succ n ih => intro v; simp [leBytes, ih]

theorem toLe_length {w : Nat} (v : BitVec w) : (toLe v).length = Config.bytesOf w := leBytes_length _ _

/-- The one byte of an 8-bit value. -/
theorem toLe_one (v : BitVec 8) : toLe v = [v] := by
  have : toLe v = [BitVec.ofNat 8 v.toNat] := rfl
  rw [this, BitVec.ofNat_toNat, BitVec.setWidth_eq]

/-- A 16-bit value has two bytes. -/
theorem toLe_two (v : BitVec 16) : ∃ b0 b1 : Byte, toLe v = [b0, b1] ∧ b0.toNat + 256 * b1.toNat = v.toNat := by
  refine ⟨_, _, rfl, ?_⟩
  have := v.isLt
  simp only [BitVec.toNat_ofNat, byteW_eq]
  omega

theorem ofLe_toLe (v : BitVec 16) : ofLe (toLe v) = v := by
  obtain ⟨b0, b1, he, hv⟩ := toLe_two v
  rw [he]
  exact BitVec.eq_of_toNat_eq ((le16_toNat b0 b1).trans hv)

theorem toLe_le16 (b0 b1 : Byte) : toLe (le16 b0 b1 : BitVec 16) = [b0, b1] := by
  have h0 := byte_lt b0
  have h1 := byte_lt b1
  obtain ⟨c0, c1, he, hv⟩ := toLe_two (le16 b0 b1)
  have g0 := byte_lt c0
  have g1 := byte_lt c1
  rw [le16_toNat] at hv
  rw [he, List.cons.injEq, List.cons.injEq]
  exact ⟨BitVec.eq_of_toNat_eq (by omega), BitVec.eq_of_toNat_eq (by omega), rfl⟩

/-- The id field is one byte. -/
theorem popLe_one (b : Byte) (rest : List Byte) : popLe Config.idW (b :: rest) = some (b, rest) := by
  rw [popLe, if_pos (by simp)]
  exact congrArg (fun v => some (v, rest)) (ofLe_one b)

/-- The length field, the rate integer and a sample are two bytes. -/
theorem popLe_two {w : Nat} (hw : Config.bytesOf w = 2) (b0 b1 : Byte) (rest : List Byte) :
    popLe w (b0 :: b1 :: rest) = some (le16 b0 b1, rest) := by
  rw [popLe, if_pos (by simp [hw]), hw]
  rfl

theorem popLe_short {w : Nat} {bs : List Byte} (h : bs.length < Config.bytesOf w) : popLe w bs = none :=
  if_neg (Nat.not_le_of_lt h)

theorem toSigned16_eq_toInt (u : Sample) : toSigned16 u = u.toInt := by
  have := sample_lt u
  simp only [toSigned16, BitVec.toInt, sampleW_eq]
  split <;> split <;> omega

theorem toBits16_toSigned16 (u : Sample) : toBits16 (toSigned16 u) = u := by
  simp [toBits16, toSigned16_eq_toInt]

theorem toSigned16_toBits16 {v : Int} (lo : -32768 ≤ v) (hi : v ≤ 32767) : toSigned16 (toBits16 v) = v := by
  rw [toSigned16_eq_toInt, toBits16, BitVec.toInt_ofInt, Int.bmod_def, sampleW_eq]
  omega

theorem nextIdx_lt (i : Nat) {n : Nat} (h : 1 ≤ n) : nextIdx i n < n := Nat.mod_lt _ h

theorem rateValid_iff (n : Rate) :
    rateValid n = true ↔ 1 ≤ n.toNat ∧ n.toNat ≤ Config.captureCapacity := by
  simp [rateValid]

theorem rateValid_false_iff (n : Rate) :
    rateValid n = false ↔ ¬ (1 ≤ n.toNat ∧ n.toNat ≤ Config.captureCapacity) := by
  rw [← rateValid_iff]
  simp

/-- R7: the base clock is at least 5000 Hz. -/
theorem clockBaseHz_least : 5000 ≤ Config.clockBaseHz := by
  exact Nat.le_add_right _ _

/-- R7: the base clock fits a period register. -/
theorem clockBaseHz_most : Config.clockBaseHz < 2 ^ 32 :=
  Nat.lt_of_lt_of_le (Nat.add_lt_add_left (Nat.mod_lt _ (by decide)) Config.clockLeast) (by decide)

/-- R7: the receive FIFO can reach the header trigger. -/
theorem rxFifoDepth_least : Config.headerSize ≤ Config.rxFifoDepth := Nat.le_add_left _ _

end Sys2Proof.Machine
end

