-- ==== Sys2Proof/Laws/Decode.lean ====
section
/-!
SUPPORT. The decoder by ranges of the id byte: the masks and matches of the opcode table as inequalities, and one lemma per
row that covers several ids.
-/

namespace Sys2Proof

/-- Three bytes decode: the first is the id, the others are the length field. -/
theorem decode_cons (b0 b1 b2 : Byte) (rest : List Byte) :
    decode (b0 :: b1 :: b2 :: rest) = .ok (decodeHeader b0 (Machine.le16 b1 b2), rest) := by
  simp only [decode, Machine.popLe_one, Machine.popLe_two Machine.bytesOf_lenW]

/-- Fewer than three bytes do not. -/
theorem decode_short {bs : List Byte} (h : bs.length < 3) : decode bs = .error .incompleteHeader := by
  rcases bs with _ | ⟨b0, bs⟩
  · rfl
  · have : Machine.popLe Config.lenW bs = none := Machine.popLe_short (show bs.length < 2 by rw [List.length_cons] at h; omega)
    simp only [decode, Machine.popLe_one, this]

theorem encode_length (i : Instr) : (encode i).length = Config.headerSize := by
  simp only [encode, List.length_append, Machine.toLe_length]

/-- An encoding is the id byte and the two bytes of the length field. -/
theorem encode_eq (i : Instr) :
    ∃ b1 b2 : Byte, encode i = [i.idByte, b1, b2] ∧ Machine.le16 b1 b2 = i.lenField := by
  obtain ⟨b1, b2, he, hv⟩ := Machine.toLe_two i.lenField
  refine ⟨b1, b2, ?_, BitVec.eq_of_toNat_eq ((Machine.le16_toNat b1 b2).trans hv)⟩
  rw [encode, he]
  exact congrArg (· ++ [b1, b2]) (Machine.toLe_one i.idByte)

/-- The header word of three bytes: the id in bits 7:0, then the length field, low byte first. -/
theorem headerWord_toNat (b0 b1 b2 : Byte) :
    (headerWord [b0, b1, b2]).toNat = b0.toNat + 256 * b1.toNat + 65536 * b2.toNat := by
  have h0 := Machine.byte_lt b0
  have h1 := Machine.byte_lt b1
  have h2 := Machine.byte_lt b2
  simp only [headerWord, Machine.ofLe, Machine.leNat, BitVec.toNat_ofNat, Machine.byteW_eq, Machine.headerW_eq]
  omega

theorem mask_06_07 : ∀ id : CmdId, id &&& 0xFE = 0x06 ↔ 6 ≤ id.toNat ∧ id.toNat ≤ 7 := by decide
theorem mask_08_0F : ∀ id : CmdId, id &&& 0xF8 = 0x08 ↔ 8 ≤ id.toNat ∧ id.toNat ≤ 15 := by decide
theorem mask_10_1F : ∀ id : CmdId, id &&& 0xF0 = 0x10 ↔ 16 ≤ id.toNat ∧ id.toNat ≤ 31 := by decide
theorem mask_20_3F : ∀ id : CmdId, id &&& 0xE0 = 0x20 ↔ 32 ≤ id.toNat ∧ id.toNat ≤ 63 := by decide
theorem mask_40_7F : ∀ id : CmdId, id &&& 0xC0 = 0x40 ↔ 64 ≤ id.toNat ∧ id.toNat ≤ 127 := by decide

theorem idWithin_iff {lo hi : Nat} {id : CmdId} : idWithin lo hi id = true ↔ lo ≤ id.toNat ∧ id.toNat ≤ hi := by
  simp [idWithin]

/-- An id of at least 6 is none of the single ids. -/
theorem decodeHeader_of_six_le {id : CmdId} (len : Len) (h : 6 ≤ id.toNat) :
    decodeHeader id len =
      if id.toNat ≤ 7 then .invalid06to07 id len
      else if id.toNat ≤ 15 then .invalid08to0F id len
      else if id.toNat ≤ 31 then .invalid10to1F id len
      else if id.toNat ≤ 63 then .invalid20to3F id len
      else if id.toNat ≤ 127 then .invalid40to7F id len
      else .invalid80toFF id len := by
  have ne (k : CmdId) (hk : k.toNat < 6) : id ≠ k := fun he => by rw [he] at h; omega
  rw [decodeHeader, if_neg (ne _ (by decide)), if_neg (ne _ (by decide)), if_neg (ne _ (by decide)),
    if_neg (ne _ (by decide)), if_neg (ne _ (by decide)), if_neg (ne 5 (by decide))]
  simp only [mask_06_07, mask_08_0F, mask_10_1F, mask_20_3F, mask_40_7F]
  by_cases h7 : id.toNat ≤ 7
  · rw [if_pos ⟨h, h7⟩, if_pos h7]
  rw [if_neg (fun hc => h7 hc.2), if_neg h7]
  by_cases h15 : id.toNat ≤ 15
  · rw [if_pos ⟨by omega, h15⟩, if_pos h15]
  rw [if_neg (fun hc => h15 hc.2), if_neg h15]
  by_cases h31 : id.toNat ≤ 31
  · rw [if_pos ⟨by omega, h31⟩, if_pos h31]
  rw [if_neg (fun hc => h31 hc.2), if_neg h31]
  by_cases h63 : id.toNat ≤ 63
  · rw [if_pos ⟨by omega, h63⟩, if_pos h63]
  rw [if_neg (fun hc => h63 hc.2), if_neg h63]
  by_cases h127 : id.toNat ≤ 127
  · rw [if_pos ⟨by omega, h127⟩, if_pos h127]
  rw [if_neg (fun hc => h127 hc.2), if_neg h127]

/-- An id below 6 is one of the six single ids. -/
theorem idByte_below_six {id : CmdId} (h : id.toNat < 6) : id = 0 ∨ id = 1 ∨ id = 2 ∨ id = 3 ∨ id = 4 ∨ id = 5 := by
  revert h
  revert id
  decide

end Sys2Proof
end

