-- ==== Sys2Proof/Laws/Memory.lean ====
section
/-!
SUPPORT. The laws of a sample memory: read after write, the canonical form, and that the form is canonical for free
reset contents.
-/

namespace Sys2Proof.Machine

@[simp] theorem memory_read_nil (free : Nat → Sample) (a : Nat) : Memory.read free [] a = free a := rfl

theorem memory_read_cons (free : Nat → Sample) (k : Nat) (v : Sample) (rest : Memory) (a : Nat) :
    Memory.read free ((k, v) :: rest) a = if a = k then v else Memory.read free rest a := rfl

/-- A read of the written slot gives the value written; every other slot reads as before. -/
theorem memory_read_write (free : Nat → Sample) (m : Memory) (a b : Nat) (v : Sample) :
    Memory.read free (Memory.write m a v) b = if b = a then v else Memory.read free m b := by
  induction m with
  | nil => simp [Memory.write, memory_read_cons]
  | cons e rest ih =>
    obtain ⟨k, w⟩ := e
    simp only [Memory.write]
    split
    · simp [memory_read_cons]
    · split
      · rename_i _ hak
        subst hak
        simp only [memory_read_cons]
        split <;> simp_all
      · rename_i _ hne
        simp only [memory_read_cons, ih]
        by_cases hb : b = a <;> by_cases hk : b = k <;> simp_all

@[simp] theorem memory_read_write_same (free : Nat → Sample) (m : Memory) (a : Nat) (v : Sample) :
    Memory.read free (Memory.write m a v) a = v := by simp [memory_read_write]

theorem memory_read_write_other (free : Nat → Sample) (m : Memory) (v : Sample) {a b : Nat} (h : b ≠ a) :
    Memory.read free (Memory.write m a v) b = Memory.read free m b := by simp [memory_read_write, h]

/-- Slots above the last bound keep the form with a weaker lower bound. -/
theorem memory_wfFrom_mono {lo lo' capacity : Nat} (h : lo ≤ lo') :
    ∀ {m : Memory}, Memory.wfFrom lo' capacity m = true → Memory.wfFrom lo capacity m = true
  | [], _ => rfl
  | (k, v) :: rest, hm => by
    simp only [Memory.wfFrom, Bool.and_eq_true, decide_eq_true_eq] at hm ⊢
    exact ⟨⟨by omega, hm.1.2⟩, hm.2⟩

/-- A slot below the first listed one reads as unlisted. -/
theorem memory_read_below {lo capacity : Nat} (free : Nat → Sample) {a : Nat} (ha : a < lo) :
    ∀ {m : Memory}, Memory.wfFrom lo capacity m = true → Memory.read free m a = free a
  | [], _ => rfl
  | (k, v) :: rest, hm => by
    simp only [Memory.wfFrom, Bool.and_eq_true, decide_eq_true_eq] at hm
    rw [memory_read_cons, if_neg (by omega)]
    exact memory_read_below free (by omega) hm.2

theorem memory_wfFrom_write {lo capacity a : Nat} (v : Sample) (hlo : lo ≤ a) (ha : a < capacity) :
    ∀ {m : Memory}, Memory.wfFrom lo capacity m = true → Memory.wfFrom lo capacity (Memory.write m a v) = true
  | [], _ => by simp [Memory.write, Memory.wfFrom, hlo, ha]
  | (k, w) :: rest, hm => by
    simp only [Memory.wfFrom, Bool.and_eq_true, decide_eq_true_eq] at hm
    simp only [Memory.write]
    split
    · simp only [Memory.wfFrom, Bool.and_eq_true, decide_eq_true_eq]
      exact ⟨⟨hlo, ha⟩, ⟨by omega, hm.1.2⟩, hm.2⟩
    · split
      · rename_i _ hak
        subst hak
        simp only [Memory.wfFrom, Bool.and_eq_true, decide_eq_true_eq]
        exact hm
      · simp only [Memory.wfFrom, Bool.and_eq_true, decide_eq_true_eq]
        exact ⟨hm.1, memory_wfFrom_write v (by omega) ha hm.2⟩

@[simp] theorem memory_wf_nil (capacity : Nat) : Memory.wf capacity [] = true := rfl

/-- A write inside the capacity keeps the canonical form. -/
theorem memory_wf_write {capacity a : Nat} {m : Memory} (v : Sample) (ha : a < capacity)
    (hm : Memory.wf capacity m = true) : Memory.wf capacity (Memory.write m a v) = true :=
  memory_wfFrom_write v (Nat.zero_le a) ha hm

theorem memory_wfFrom_ext {capacity : Nat} : ∀ {lo : Nat} {m m' : Memory},
    Memory.wfFrom lo capacity m = true → Memory.wfFrom lo capacity m' = true →
    (∀ free a, Memory.read free m a = Memory.read free m' a) → m = m'
  | _, [], [], _, _, _ => rfl
  | _, [], (k, v) :: rest, _, _, h => by
    have := h (fun _ => v + 1) k
    simp [memory_read_cons] at this
  | _, (k, v) :: rest, [], _, _, h => by
    have := h (fun _ => v + 1) k
    simp [memory_read_cons] at this
  | lo, (k, v) :: rest, (k', v') :: rest', hm, hm', h => by
    simp only [Memory.wfFrom, Bool.and_eq_true, decide_eq_true_eq] at hm hm'
    have hk : k = k' := by
      rcases Nat.lt_trichotomy k k' with hlt | heq | hgt
      · have := h (fun _ => v + 1) k
        rw [memory_read_cons, if_pos rfl, memory_read_cons, if_neg (by omega),
          memory_read_below _ (by omega) hm'.2] at this
        simp at this
      · exact heq
      · have := h (fun _ => v' + 1) k'
        rw [memory_read_cons, if_neg (by omega), memory_read_below _ (by omega) hm.2, memory_read_cons,
          if_pos rfl] at this
        simp at this
    subst hk
    have hv : v = v' := by simpa [memory_read_cons] using h (fun _ => 0) k
    subst hv
    have hrest : rest = rest' := memory_wfFrom_ext hm.2 hm'.2 fun free a => by
      by_cases ha : a = k
      · rw [memory_read_below free (by omega) hm.2, memory_read_below free (by omega) hm'.2]
      · simpa [memory_read_cons, ha] using h free a
    rw [hrest]

/-- The form is canonical: two memories that read alike whatever the reset left in them are equal. -/
theorem memory_ext {capacity : Nat} {m m' : Memory} (hm : Memory.wf capacity m = true)
    (hm' : Memory.wf capacity m' = true) (h : ∀ free a, Memory.read free m a = Memory.read free m' a) : m = m' :=
  memory_wfFrom_ext hm hm' h

end Sys2Proof.Machine
end

