-- ==== Sys2Proof/Laws/State.lean ====
section
/-!
SUPPORT. What each update of the state does to each field: one lemma a field, so that no proof unfolds an update.
-/

namespace Sys2Proof.Machine

section withRx

variable (rest : List Byte) (s : State)

@[simp] theorem withRx_pendCmd : (withRx rest s).pendCmd = s.pendCmd := rfl
@[simp] theorem withRx_pendLen : (withRx rest s).pendLen = s.pendLen := rfl
@[simp] theorem withRx_rxstat : (withRx rest s).rxstat = s.rxstat := rfl
@[simp] theorem withRx_dispCmd : (withRx rest s).dispCmd = s.dispCmd := rfl
@[simp] theorem withRx_xferIdx : (withRx rest s).xferIdx = s.xferIdx := rfl
@[simp] theorem withRx_actlen : (withRx rest s).actlen = s.actlen := rfl
@[simp] theorem withRx_capIdx : (withRx rest s).capIdx = s.capIdx := rfl
@[simp] theorem withRx_playIdx : (withRx rest s).playIdx = s.playIdx := rfl
@[simp] theorem withRx_acqPrd : (withRx rest s).acqPrd = s.acqPrd := rfl
@[simp] theorem withRx_acqCnt : (withRx rest s).acqCnt = s.acqCnt := rfl
@[simp] theorem withRx_acqReq : (withRx rest s).acqReq = s.acqReq := rfl
@[simp] theorem withRx_playPrd : (withRx rest s).playPrd = s.playPrd := rfl
@[simp] theorem withRx_playCnt : (withRx rest s).playCnt = s.playCnt := rfl
@[simp] theorem withRx_playReq : (withRx rest s).playReq = s.playReq := rfl
@[simp] theorem withRx_gain : (withRx rest s).gain = s.gain := rfl
@[simp] theorem withRx_initDone : (withRx rest s).initDone = s.initDone := rfl
@[simp] theorem withRx_rxOverrun : (withRx rest s).rxOverrun = s.rxOverrun := rfl
@[simp] theorem withRx_cap : (withRx rest s).cap = s.cap := rfl
@[simp] theorem withRx_play : (withRx rest s).play = s.play := rfl
@[simp] theorem withRx_rxfifo : (withRx rest s).rxfifo = rest := rfl
@[simp] theorem withRx_tx : (withRx rest s).tx = s.tx := rfl
@[simp] theorem withRx_dac : (withRx rest s).dac = s.dac := rfl
@[simp] theorem withRx_acks : (withRx rest s).acks = s.acks := rfl
@[simp] theorem withRx_resets : (withRx rest s).resets = s.resets := rfl
@[simp] theorem withRx_nanDraws : (withRx rest s).nanDraws = s.nanDraws := rfl
@[simp] theorem withRx_script : (withRx rest s).script = s.script := rfl
@[simp] theorem withRx_turns : (withRx rest s).turns = s.turns := rfl

end withRx

section txEmit

variable {w : Nat} (v : BitVec w) (s : State)

@[simp] theorem txEmit_pendCmd : (txEmit v s).pendCmd = s.pendCmd := rfl
@[simp] theorem txEmit_pendLen : (txEmit v s).pendLen = s.pendLen := rfl
@[simp] theorem txEmit_rxstat : (txEmit v s).rxstat = s.rxstat := rfl
@[simp] theorem txEmit_dispCmd : (txEmit v s).dispCmd = s.dispCmd := rfl
@[simp] theorem txEmit_xferIdx : (txEmit v s).xferIdx = s.xferIdx := rfl
@[simp] theorem txEmit_actlen : (txEmit v s).actlen = s.actlen := rfl
@[simp] theorem txEmit_capIdx : (txEmit v s).capIdx = s.capIdx := rfl
@[simp] theorem txEmit_playIdx : (txEmit v s).playIdx = s.playIdx := rfl
@[simp] theorem txEmit_acqPrd : (txEmit v s).acqPrd = s.acqPrd := rfl
@[simp] theorem txEmit_acqCnt : (txEmit v s).acqCnt = s.acqCnt := rfl
@[simp] theorem txEmit_acqReq : (txEmit v s).acqReq = s.acqReq := rfl
@[simp] theorem txEmit_playPrd : (txEmit v s).playPrd = s.playPrd := rfl
@[simp] theorem txEmit_playCnt : (txEmit v s).playCnt = s.playCnt := rfl
@[simp] theorem txEmit_playReq : (txEmit v s).playReq = s.playReq := rfl
@[simp] theorem txEmit_gain : (txEmit v s).gain = s.gain := rfl
@[simp] theorem txEmit_initDone : (txEmit v s).initDone = s.initDone := rfl
@[simp] theorem txEmit_rxOverrun : (txEmit v s).rxOverrun = s.rxOverrun := rfl
@[simp] theorem txEmit_cap : (txEmit v s).cap = s.cap := rfl
@[simp] theorem txEmit_play : (txEmit v s).play = s.play := rfl
@[simp] theorem txEmit_rxfifo : (txEmit v s).rxfifo = s.rxfifo := rfl
@[simp] theorem txEmit_tx : (txEmit v s).tx = s.tx ++ toLe v := rfl
@[simp] theorem txEmit_dac : (txEmit v s).dac = s.dac := rfl
@[simp] theorem txEmit_acks : (txEmit v s).acks = s.acks := rfl
@[simp] theorem txEmit_resets : (txEmit v s).resets = s.resets := rfl
@[simp] theorem txEmit_nanDraws : (txEmit v s).nanDraws = s.nanDraws := rfl
@[simp] theorem txEmit_script : (txEmit v s).script = s.script := rfl
@[simp] theorem txEmit_turns : (txEmit v s).turns = s.turns := rfl

end txEmit

section publish

variable (c : Cmd) (len : Len) (s : State)

@[simp] theorem publish_pendCmd : (publish c len s).pendCmd = c := rfl
@[simp] theorem publish_pendLen : (publish c len s).pendLen = len := rfl
@[simp] theorem publish_rxstat : (publish c len s).rxstat = true := rfl
@[simp] theorem publish_dispCmd : (publish c len s).dispCmd = s.dispCmd := rfl
@[simp] theorem publish_xferIdx : (publish c len s).xferIdx = s.xferIdx := rfl
@[simp] theorem publish_actlen : (publish c len s).actlen = s.actlen := rfl
@[simp] theorem publish_capIdx : (publish c len s).capIdx = s.capIdx := rfl
@[simp] theorem publish_playIdx : (publish c len s).playIdx = s.playIdx := rfl
@[simp] theorem publish_acqPrd : (publish c len s).acqPrd = s.acqPrd := rfl
@[simp] theorem publish_acqCnt : (publish c len s).acqCnt = s.acqCnt := rfl
@[simp] theorem publish_acqReq : (publish c len s).acqReq = s.acqReq := rfl
@[simp] theorem publish_playPrd : (publish c len s).playPrd = s.playPrd := rfl
@[simp] theorem publish_playCnt : (publish c len s).playCnt = s.playCnt := rfl
@[simp] theorem publish_playReq : (publish c len s).playReq = s.playReq := rfl
@[simp] theorem publish_gain : (publish c len s).gain = s.gain := rfl
@[simp] theorem publish_initDone : (publish c len s).initDone = s.initDone := rfl
@[simp] theorem publish_rxOverrun : (publish c len s).rxOverrun = s.rxOverrun := rfl
@[simp] theorem publish_cap : (publish c len s).cap = s.cap := rfl
@[simp] theorem publish_play : (publish c len s).play = s.play := rfl
@[simp] theorem publish_rxfifo : (publish c len s).rxfifo = s.rxfifo := rfl
@[simp] theorem publish_tx : (publish c len s).tx = s.tx := rfl
@[simp] theorem publish_dac : (publish c len s).dac = s.dac := rfl
@[simp] theorem publish_acks : (publish c len s).acks = s.acks ++ [.rxIrq] := rfl
@[simp] theorem publish_resets : (publish c len s).resets = s.resets := rfl
@[simp] theorem publish_nanDraws : (publish c len s).nanDraws = s.nanDraws := rfl
@[simp] theorem publish_script : (publish c len s).script = s.script := rfl
@[simp] theorem publish_turns : (publish c len s).turns = s.turns := rfl

end publish

section release

variable (s : State)

@[simp] theorem release_pendCmd : (release s).pendCmd = .none := rfl
@[simp] theorem release_pendLen : (release s).pendLen = s.pendLen := rfl
@[simp] theorem release_rxstat : (release s).rxstat = false := rfl
@[simp] theorem release_dispCmd : (release s).dispCmd = .none := rfl
@[simp] theorem release_xferIdx : (release s).xferIdx = 0 := rfl
@[simp] theorem release_actlen : (release s).actlen = s.actlen := rfl
@[simp] theorem release_capIdx : (release s).capIdx = s.capIdx := rfl
@[simp] theorem release_playIdx : (release s).playIdx = s.playIdx := rfl
@[simp] theorem release_acqPrd : (release s).acqPrd = s.acqPrd := rfl
@[simp] theorem release_acqCnt : (release s).acqCnt = s.acqCnt := rfl
@[simp] theorem release_acqReq : (release s).acqReq = s.acqReq := rfl
@[simp] theorem release_playPrd : (release s).playPrd = s.playPrd := rfl
@[simp] theorem release_playCnt : (release s).playCnt = s.playCnt := rfl
@[simp] theorem release_playReq : (release s).playReq = s.playReq := rfl
@[simp] theorem release_gain : (release s).gain = s.gain := rfl
@[simp] theorem release_initDone : (release s).initDone = s.initDone := rfl
@[simp] theorem release_rxOverrun : (release s).rxOverrun = s.rxOverrun := rfl
@[simp] theorem release_cap : (release s).cap = s.cap := rfl
@[simp] theorem release_play : (release s).play = s.play := rfl
@[simp] theorem release_rxfifo : (release s).rxfifo = s.rxfifo := rfl
@[simp] theorem release_tx : (release s).tx = s.tx := rfl
@[simp] theorem release_dac : (release s).dac = s.dac := rfl
@[simp] theorem release_acks : (release s).acks = s.acks ++ [.rxStatus] := rfl
@[simp] theorem release_resets : (release s).resets = s.resets := rfl
@[simp] theorem release_nanDraws : (release s).nanDraws = s.nanDraws := rfl
@[simp] theorem release_script : (release s).script = s.script := rfl
@[simp] theorem release_turns : (release s).turns = s.turns := rfl

end release

section setRate

variable (n : Rate) (s : State)

@[simp] theorem setRate_pendCmd : (setRate n s).pendCmd = s.pendCmd := rfl
@[simp] theorem setRate_pendLen : (setRate n s).pendLen = s.pendLen := rfl
@[simp] theorem setRate_rxstat : (setRate n s).rxstat = s.rxstat := rfl
@[simp] theorem setRate_dispCmd : (setRate n s).dispCmd = s.dispCmd := rfl
@[simp] theorem setRate_xferIdx : (setRate n s).xferIdx = s.xferIdx := rfl
@[simp] theorem setRate_actlen : (setRate n s).actlen = n := rfl
@[simp] theorem setRate_capIdx : (setRate n s).capIdx = s.capIdx := rfl
@[simp] theorem setRate_playIdx : (setRate n s).playIdx = s.playIdx := rfl
@[simp] theorem setRate_acqPrd : (setRate n s).acqPrd = acqPeriodWord n.toNat := rfl
@[simp] theorem setRate_acqCnt : (setRate n s).acqCnt = s.acqCnt := rfl
@[simp] theorem setRate_acqReq : (setRate n s).acqReq = s.acqReq := rfl
@[simp] theorem setRate_playPrd : (setRate n s).playPrd = s.playPrd := rfl
@[simp] theorem setRate_playCnt : (setRate n s).playCnt = s.playCnt := rfl
@[simp] theorem setRate_playReq : (setRate n s).playReq = s.playReq := rfl
@[simp] theorem setRate_gain : (setRate n s).gain = s.gain := rfl
@[simp] theorem setRate_initDone : (setRate n s).initDone = s.initDone := rfl
@[simp] theorem setRate_rxOverrun : (setRate n s).rxOverrun = s.rxOverrun := rfl
@[simp] theorem setRate_cap : (setRate n s).cap = s.cap := rfl
@[simp] theorem setRate_play : (setRate n s).play = s.play := rfl
@[simp] theorem setRate_rxfifo : (setRate n s).rxfifo = s.rxfifo := rfl
@[simp] theorem setRate_tx : (setRate n s).tx = s.tx := rfl
@[simp] theorem setRate_dac : (setRate n s).dac = s.dac := rfl
@[simp] theorem setRate_acks : (setRate n s).acks = s.acks := rfl
@[simp] theorem setRate_resets : (setRate n s).resets = s.resets := rfl
@[simp] theorem setRate_nanDraws : (setRate n s).nanDraws = s.nanDraws := rfl
@[simp] theorem setRate_script : (setRate n s).script = s.script := rfl
@[simp] theorem setRate_turns : (setRate n s).turns = s.turns := rfl

end setRate

section nextXfer

variable (s : State)

@[simp] theorem nextXfer_pendCmd : (nextXfer s).pendCmd = s.pendCmd := rfl
@[simp] theorem nextXfer_pendLen : (nextXfer s).pendLen = s.pendLen := rfl
@[simp] theorem nextXfer_rxstat : (nextXfer s).rxstat = s.rxstat := rfl
@[simp] theorem nextXfer_dispCmd : (nextXfer s).dispCmd = s.dispCmd := rfl
@[simp] theorem nextXfer_xferIdx : (nextXfer s).xferIdx = s.xferIdx + 1 := rfl
@[simp] theorem nextXfer_actlen : (nextXfer s).actlen = s.actlen := rfl
@[simp] theorem nextXfer_capIdx : (nextXfer s).capIdx = s.capIdx := rfl
@[simp] theorem nextXfer_playIdx : (nextXfer s).playIdx = s.playIdx := rfl
@[simp] theorem nextXfer_acqPrd : (nextXfer s).acqPrd = s.acqPrd := rfl
@[simp] theorem nextXfer_acqCnt : (nextXfer s).acqCnt = s.acqCnt := rfl
@[simp] theorem nextXfer_acqReq : (nextXfer s).acqReq = s.acqReq := rfl
@[simp] theorem nextXfer_playPrd : (nextXfer s).playPrd = s.playPrd := rfl
@[simp] theorem nextXfer_playCnt : (nextXfer s).playCnt = s.playCnt := rfl
@[simp] theorem nextXfer_playReq : (nextXfer s).playReq = s.playReq := rfl
@[simp] theorem nextXfer_gain : (nextXfer s).gain = s.gain := rfl
@[simp] theorem nextXfer_initDone : (nextXfer s).initDone = s.initDone := rfl
@[simp] theorem nextXfer_rxOverrun : (nextXfer s).rxOverrun = s.rxOverrun := rfl
@[simp] theorem nextXfer_cap : (nextXfer s).cap = s.cap := rfl
@[simp] theorem nextXfer_play : (nextXfer s).play = s.play := rfl
@[simp] theorem nextXfer_rxfifo : (nextXfer s).rxfifo = s.rxfifo := rfl
@[simp] theorem nextXfer_tx : (nextXfer s).tx = s.tx := rfl
@[simp] theorem nextXfer_dac : (nextXfer s).dac = s.dac := rfl
@[simp] theorem nextXfer_acks : (nextXfer s).acks = s.acks := rfl
@[simp] theorem nextXfer_resets : (nextXfer s).resets = s.resets := rfl
@[simp] theorem nextXfer_nanDraws : (nextXfer s).nanDraws = s.nanDraws := rfl
@[simp] theorem nextXfer_script : (nextXfer s).script = s.script := rfl
@[simp] theorem nextXfer_turns : (nextXfer s).turns = s.turns := rfl

end nextXfer

section finishAcq

variable (s : State)

@[simp] theorem finishAcq_pendCmd : (finishAcq s).pendCmd = s.pendCmd := rfl
@[simp] theorem finishAcq_pendLen : (finishAcq s).pendLen = s.pendLen := rfl
@[simp] theorem finishAcq_rxstat : (finishAcq s).rxstat = s.rxstat := rfl
@[simp] theorem finishAcq_dispCmd : (finishAcq s).dispCmd = s.dispCmd := rfl
@[simp] theorem finishAcq_xferIdx : (finishAcq s).xferIdx = s.xferIdx := rfl
@[simp] theorem finishAcq_actlen : (finishAcq s).actlen = s.actlen := rfl
@[simp] theorem finishAcq_capIdx : (finishAcq s).capIdx = BitVec.ofNat _ (nextIdx s.capIdx.toNat s.actlen.toNat) := rfl
@[simp] theorem finishAcq_playIdx : (finishAcq s).playIdx = s.playIdx := rfl
@[simp] theorem finishAcq_acqPrd : (finishAcq s).acqPrd = s.acqPrd := rfl
@[simp] theorem finishAcq_acqCnt : (finishAcq s).acqCnt = s.acqCnt := rfl
@[simp] theorem finishAcq_acqReq : (finishAcq s).acqReq = false := rfl
@[simp] theorem finishAcq_playPrd : (finishAcq s).playPrd = s.playPrd := rfl
@[simp] theorem finishAcq_playCnt : (finishAcq s).playCnt = s.playCnt := rfl
@[simp] theorem finishAcq_playReq : (finishAcq s).playReq = s.playReq := rfl
@[simp] theorem finishAcq_gain : (finishAcq s).gain = s.gain := rfl
@[simp] theorem finishAcq_initDone : (finishAcq s).initDone = s.initDone := rfl
@[simp] theorem finishAcq_rxOverrun : (finishAcq s).rxOverrun = s.rxOverrun := rfl
@[simp] theorem finishAcq_cap : (finishAcq s).cap = s.cap := rfl
@[simp] theorem finishAcq_play : (finishAcq s).play = s.play := rfl
@[simp] theorem finishAcq_rxfifo : (finishAcq s).rxfifo = s.rxfifo := rfl
@[simp] theorem finishAcq_tx : (finishAcq s).tx = s.tx := rfl
@[simp] theorem finishAcq_dac : (finishAcq s).dac = s.dac := rfl
@[simp] theorem finishAcq_acks : (finishAcq s).acks = s.acks ++ [.conv, .acqTmr] := rfl
@[simp] theorem finishAcq_resets : (finishAcq s).resets = s.resets := rfl
@[simp] theorem finishAcq_nanDraws : (finishAcq s).nanDraws = s.nanDraws := rfl
@[simp] theorem finishAcq_script : (finishAcq s).script = s.script := rfl
@[simp] theorem finishAcq_turns : (finishAcq s).turns = s.turns := rfl

end finishAcq

section finishPlay

variable (y : Sample) (s : State)

@[simp] theorem finishPlay_pendCmd : (finishPlay y s).pendCmd = s.pendCmd := rfl
@[simp] theorem finishPlay_pendLen : (finishPlay y s).pendLen = s.pendLen := rfl
@[simp] theorem finishPlay_rxstat : (finishPlay y s).rxstat = s.rxstat := rfl
@[simp] theorem finishPlay_dispCmd : (finishPlay y s).dispCmd = s.dispCmd := rfl
@[simp] theorem finishPlay_xferIdx : (finishPlay y s).xferIdx = s.xferIdx := rfl
@[simp] theorem finishPlay_actlen : (finishPlay y s).actlen = s.actlen := rfl
@[simp] theorem finishPlay_capIdx : (finishPlay y s).capIdx = s.capIdx := rfl
@[simp] theorem finishPlay_playIdx : (finishPlay y s).playIdx = BitVec.ofNat _ (nextIdx s.playIdx.toNat Config.playbackCapacity) := rfl
@[simp] theorem finishPlay_acqPrd : (finishPlay y s).acqPrd = s.acqPrd := rfl
@[simp] theorem finishPlay_acqCnt : (finishPlay y s).acqCnt = s.acqCnt := rfl
@[simp] theorem finishPlay_acqReq : (finishPlay y s).acqReq = s.acqReq := rfl
@[simp] theorem finishPlay_playPrd : (finishPlay y s).playPrd = s.playPrd := rfl
@[simp] theorem finishPlay_playCnt : (finishPlay y s).playCnt = s.playCnt := rfl
@[simp] theorem finishPlay_playReq : (finishPlay y s).playReq = false := rfl
@[simp] theorem finishPlay_gain : (finishPlay y s).gain = s.gain := rfl
@[simp] theorem finishPlay_initDone : (finishPlay y s).initDone = s.initDone := rfl
@[simp] theorem finishPlay_rxOverrun : (finishPlay y s).rxOverrun = s.rxOverrun := rfl
@[simp] theorem finishPlay_cap : (finishPlay y s).cap = s.cap := rfl
@[simp] theorem finishPlay_play : (finishPlay y s).play = s.play := rfl
@[simp] theorem finishPlay_rxfifo : (finishPlay y s).rxfifo = s.rxfifo := rfl
@[simp] theorem finishPlay_tx : (finishPlay y s).tx = s.tx := rfl
@[simp] theorem finishPlay_dac : (finishPlay y s).dac = s.dac ++ [y] := rfl
@[simp] theorem finishPlay_acks : (finishPlay y s).acks = s.acks ++ [.playTmr] := rfl
@[simp] theorem finishPlay_resets : (finishPlay y s).resets = s.resets := rfl
@[simp] theorem finishPlay_nanDraws : (finishPlay y s).nanDraws = s.nanDraws := rfl
@[simp] theorem finishPlay_script : (finishPlay y s).script = s.script := rfl
@[simp] theorem finishPlay_turns : (finishPlay y s).turns = s.turns := rfl

end finishPlay

section drawNan

variable (s : State)

@[simp] theorem drawNan_pendCmd : (drawNan s).pendCmd = s.pendCmd := rfl
@[simp] theorem drawNan_pendLen : (drawNan s).pendLen = s.pendLen := rfl
@[simp] theorem drawNan_rxstat : (drawNan s).rxstat = s.rxstat := rfl
@[simp] theorem drawNan_dispCmd : (drawNan s).dispCmd = s.dispCmd := rfl
@[simp] theorem drawNan_xferIdx : (drawNan s).xferIdx = s.xferIdx := rfl
@[simp] theorem drawNan_actlen : (drawNan s).actlen = s.actlen := rfl
@[simp] theorem drawNan_capIdx : (drawNan s).capIdx = s.capIdx := rfl
@[simp] theorem drawNan_playIdx : (drawNan s).playIdx = s.playIdx := rfl
@[simp] theorem drawNan_acqPrd : (drawNan s).acqPrd = s.acqPrd := rfl
@[simp] theorem drawNan_acqCnt : (drawNan s).acqCnt = s.acqCnt := rfl
@[simp] theorem drawNan_acqReq : (drawNan s).acqReq = s.acqReq := rfl
@[simp] theorem drawNan_playPrd : (drawNan s).playPrd = s.playPrd := rfl
@[simp] theorem drawNan_playCnt : (drawNan s).playCnt = s.playCnt := rfl
@[simp] theorem drawNan_playReq : (drawNan s).playReq = s.playReq := rfl
@[simp] theorem drawNan_gain : (drawNan s).gain = s.gain := rfl
@[simp] theorem drawNan_initDone : (drawNan s).initDone = s.initDone := rfl
@[simp] theorem drawNan_rxOverrun : (drawNan s).rxOverrun = s.rxOverrun := rfl
@[simp] theorem drawNan_cap : (drawNan s).cap = s.cap := rfl
@[simp] theorem drawNan_play : (drawNan s).play = s.play := rfl
@[simp] theorem drawNan_rxfifo : (drawNan s).rxfifo = s.rxfifo := rfl
@[simp] theorem drawNan_tx : (drawNan s).tx = s.tx := rfl
@[simp] theorem drawNan_dac : (drawNan s).dac = s.dac := rfl
@[simp] theorem drawNan_acks : (drawNan s).acks = s.acks := rfl
@[simp] theorem drawNan_resets : (drawNan s).resets = s.resets := rfl
@[simp] theorem drawNan_nanDraws : (drawNan s).nanDraws = s.nanDraws + 1 := rfl
@[simp] theorem drawNan_script : (drawNan s).script = s.script := rfl
@[simp] theorem drawNan_turns : (drawNan s).turns = s.turns := rfl

end drawNan

section raiseAcq

variable (s : State)

@[simp] theorem raiseAcq_pendCmd : (raiseAcq s).pendCmd = s.pendCmd := rfl
@[simp] theorem raiseAcq_pendLen : (raiseAcq s).pendLen = s.pendLen := rfl
@[simp] theorem raiseAcq_rxstat : (raiseAcq s).rxstat = s.rxstat := rfl
@[simp] theorem raiseAcq_dispCmd : (raiseAcq s).dispCmd = s.dispCmd := rfl
@[simp] theorem raiseAcq_xferIdx : (raiseAcq s).xferIdx = s.xferIdx := rfl
@[simp] theorem raiseAcq_actlen : (raiseAcq s).actlen = s.actlen := rfl
@[simp] theorem raiseAcq_capIdx : (raiseAcq s).capIdx = s.capIdx := rfl
@[simp] theorem raiseAcq_playIdx : (raiseAcq s).playIdx = s.playIdx := rfl
@[simp] theorem raiseAcq_acqPrd : (raiseAcq s).acqPrd = s.acqPrd := rfl
@[simp] theorem raiseAcq_acqCnt : (raiseAcq s).acqCnt = s.acqCnt := rfl
@[simp] theorem raiseAcq_acqReq : (raiseAcq s).acqReq = true := rfl
@[simp] theorem raiseAcq_playPrd : (raiseAcq s).playPrd = s.playPrd := rfl
@[simp] theorem raiseAcq_playCnt : (raiseAcq s).playCnt = s.playCnt := rfl
@[simp] theorem raiseAcq_playReq : (raiseAcq s).playReq = s.playReq := rfl
@[simp] theorem raiseAcq_gain : (raiseAcq s).gain = s.gain := rfl
@[simp] theorem raiseAcq_initDone : (raiseAcq s).initDone = s.initDone := rfl
@[simp] theorem raiseAcq_rxOverrun : (raiseAcq s).rxOverrun = s.rxOverrun := rfl
@[simp] theorem raiseAcq_cap : (raiseAcq s).cap = s.cap := rfl
@[simp] theorem raiseAcq_play : (raiseAcq s).play = s.play := rfl
@[simp] theorem raiseAcq_rxfifo : (raiseAcq s).rxfifo = s.rxfifo := rfl
@[simp] theorem raiseAcq_tx : (raiseAcq s).tx = s.tx := rfl
@[simp] theorem raiseAcq_dac : (raiseAcq s).dac = s.dac := rfl
@[simp] theorem raiseAcq_acks : (raiseAcq s).acks = s.acks := rfl
@[simp] theorem raiseAcq_resets : (raiseAcq s).resets = s.resets := rfl
@[simp] theorem raiseAcq_nanDraws : (raiseAcq s).nanDraws = s.nanDraws := rfl
@[simp] theorem raiseAcq_script : (raiseAcq s).script = s.script := rfl
@[simp] theorem raiseAcq_turns : (raiseAcq s).turns = s.turns := rfl

end raiseAcq

section raisePlay

variable (s : State)

@[simp] theorem raisePlay_pendCmd : (raisePlay s).pendCmd = s.pendCmd := rfl
@[simp] theorem raisePlay_pendLen : (raisePlay s).pendLen = s.pendLen := rfl
@[simp] theorem raisePlay_rxstat : (raisePlay s).rxstat = s.rxstat := rfl
@[simp] theorem raisePlay_dispCmd : (raisePlay s).dispCmd = s.dispCmd := rfl
@[simp] theorem raisePlay_xferIdx : (raisePlay s).xferIdx = s.xferIdx := rfl
@[simp] theorem raisePlay_actlen : (raisePlay s).actlen = s.actlen := rfl
@[simp] theorem raisePlay_capIdx : (raisePlay s).capIdx = s.capIdx := rfl
@[simp] theorem raisePlay_playIdx : (raisePlay s).playIdx = s.playIdx := rfl
@[simp] theorem raisePlay_acqPrd : (raisePlay s).acqPrd = s.acqPrd := rfl
@[simp] theorem raisePlay_acqCnt : (raisePlay s).acqCnt = s.acqCnt := rfl
@[simp] theorem raisePlay_acqReq : (raisePlay s).acqReq = s.acqReq := rfl
@[simp] theorem raisePlay_playPrd : (raisePlay s).playPrd = s.playPrd := rfl
@[simp] theorem raisePlay_playCnt : (raisePlay s).playCnt = s.playCnt := rfl
@[simp] theorem raisePlay_playReq : (raisePlay s).playReq = true := rfl
@[simp] theorem raisePlay_gain : (raisePlay s).gain = s.gain := rfl
@[simp] theorem raisePlay_initDone : (raisePlay s).initDone = s.initDone := rfl
@[simp] theorem raisePlay_rxOverrun : (raisePlay s).rxOverrun = s.rxOverrun := rfl
@[simp] theorem raisePlay_cap : (raisePlay s).cap = s.cap := rfl
@[simp] theorem raisePlay_play : (raisePlay s).play = s.play := rfl
@[simp] theorem raisePlay_rxfifo : (raisePlay s).rxfifo = s.rxfifo := rfl
@[simp] theorem raisePlay_tx : (raisePlay s).tx = s.tx := rfl
@[simp] theorem raisePlay_dac : (raisePlay s).dac = s.dac := rfl
@[simp] theorem raisePlay_acks : (raisePlay s).acks = s.acks := rfl
@[simp] theorem raisePlay_resets : (raisePlay s).resets = s.resets := rfl
@[simp] theorem raisePlay_nanDraws : (raisePlay s).nanDraws = s.nanDraws := rfl
@[simp] theorem raisePlay_script : (raisePlay s).script = s.script := rfl
@[simp] theorem raisePlay_turns : (raisePlay s).turns = s.turns := rfl

end raisePlay

section gainDrive

variable (g : Word) (s : State)

@[simp] theorem gainDrive_pendCmd : (gainDrive g s).pendCmd = s.pendCmd := rfl
@[simp] theorem gainDrive_pendLen : (gainDrive g s).pendLen = s.pendLen := rfl
@[simp] theorem gainDrive_rxstat : (gainDrive g s).rxstat = s.rxstat := rfl
@[simp] theorem gainDrive_dispCmd : (gainDrive g s).dispCmd = s.dispCmd := rfl
@[simp] theorem gainDrive_xferIdx : (gainDrive g s).xferIdx = s.xferIdx := rfl
@[simp] theorem gainDrive_actlen : (gainDrive g s).actlen = s.actlen := rfl
@[simp] theorem gainDrive_capIdx : (gainDrive g s).capIdx = s.capIdx := rfl
@[simp] theorem gainDrive_playIdx : (gainDrive g s).playIdx = s.playIdx := rfl
@[simp] theorem gainDrive_acqPrd : (gainDrive g s).acqPrd = s.acqPrd := rfl
@[simp] theorem gainDrive_acqCnt : (gainDrive g s).acqCnt = s.acqCnt := rfl
@[simp] theorem gainDrive_acqReq : (gainDrive g s).acqReq = s.acqReq := rfl
@[simp] theorem gainDrive_playPrd : (gainDrive g s).playPrd = s.playPrd := rfl
@[simp] theorem gainDrive_playCnt : (gainDrive g s).playCnt = s.playCnt := rfl
@[simp] theorem gainDrive_playReq : (gainDrive g s).playReq = s.playReq := rfl
@[simp] theorem gainDrive_gain : (gainDrive g s).gain = g := rfl
@[simp] theorem gainDrive_initDone : (gainDrive g s).initDone = s.initDone := rfl
@[simp] theorem gainDrive_rxOverrun : (gainDrive g s).rxOverrun = s.rxOverrun := rfl
@[simp] theorem gainDrive_cap : (gainDrive g s).cap = s.cap := rfl
@[simp] theorem gainDrive_play : (gainDrive g s).play = s.play := rfl
@[simp] theorem gainDrive_rxfifo : (gainDrive g s).rxfifo = s.rxfifo := rfl
@[simp] theorem gainDrive_tx : (gainDrive g s).tx = s.tx := rfl
@[simp] theorem gainDrive_dac : (gainDrive g s).dac = s.dac := rfl
@[simp] theorem gainDrive_acks : (gainDrive g s).acks = s.acks := rfl
@[simp] theorem gainDrive_resets : (gainDrive g s).resets = s.resets := rfl
@[simp] theorem gainDrive_nanDraws : (gainDrive g s).nanDraws = s.nanDraws := rfl
@[simp] theorem gainDrive_script : (gainDrive g s).script = s.script := rfl
@[simp] theorem gainDrive_turns : (gainDrive g s).turns = s.turns := rfl

end gainDrive

section setInitDone

variable (s : State)

@[simp] theorem setInitDone_pendCmd : (setInitDone s).pendCmd = s.pendCmd := rfl
@[simp] theorem setInitDone_pendLen : (setInitDone s).pendLen = s.pendLen := rfl
@[simp] theorem setInitDone_rxstat : (setInitDone s).rxstat = s.rxstat := rfl
@[simp] theorem setInitDone_dispCmd : (setInitDone s).dispCmd = s.dispCmd := rfl
@[simp] theorem setInitDone_xferIdx : (setInitDone s).xferIdx = s.xferIdx := rfl
@[simp] theorem setInitDone_actlen : (setInitDone s).actlen = s.actlen := rfl
@[simp] theorem setInitDone_capIdx : (setInitDone s).capIdx = s.capIdx := rfl
@[simp] theorem setInitDone_playIdx : (setInitDone s).playIdx = s.playIdx := rfl
@[simp] theorem setInitDone_acqPrd : (setInitDone s).acqPrd = s.acqPrd := rfl
@[simp] theorem setInitDone_acqCnt : (setInitDone s).acqCnt = s.acqCnt := rfl
@[simp] theorem setInitDone_acqReq : (setInitDone s).acqReq = s.acqReq := rfl
@[simp] theorem setInitDone_playPrd : (setInitDone s).playPrd = s.playPrd := rfl
@[simp] theorem setInitDone_playCnt : (setInitDone s).playCnt = s.playCnt := rfl
@[simp] theorem setInitDone_playReq : (setInitDone s).playReq = s.playReq := rfl
@[simp] theorem setInitDone_gain : (setInitDone s).gain = s.gain := rfl
@[simp] theorem setInitDone_initDone : (setInitDone s).initDone = true := rfl
@[simp] theorem setInitDone_rxOverrun : (setInitDone s).rxOverrun = s.rxOverrun := rfl
@[simp] theorem setInitDone_cap : (setInitDone s).cap = s.cap := rfl
@[simp] theorem setInitDone_play : (setInitDone s).play = s.play := rfl
@[simp] theorem setInitDone_rxfifo : (setInitDone s).rxfifo = s.rxfifo := rfl
@[simp] theorem setInitDone_tx : (setInitDone s).tx = s.tx := rfl
@[simp] theorem setInitDone_dac : (setInitDone s).dac = s.dac := rfl
@[simp] theorem setInitDone_acks : (setInitDone s).acks = s.acks := rfl
@[simp] theorem setInitDone_resets : (setInitDone s).resets = s.resets := rfl
@[simp] theorem setInitDone_nanDraws : (setInitDone s).nanDraws = s.nanDraws := rfl
@[simp] theorem setInitDone_script : (setInitDone s).script = s.script := rfl
@[simp] theorem setInitDone_turns : (setInitDone s).turns = s.turns := rfl

end setInitDone

section advance

variable (s : State)

@[simp] theorem advance_pendCmd : s.advance.pendCmd = s.pendCmd := rfl
@[simp] theorem advance_pendLen : s.advance.pendLen = s.pendLen := rfl
@[simp] theorem advance_rxstat : s.advance.rxstat = s.rxstat := rfl
@[simp] theorem advance_dispCmd : s.advance.dispCmd = s.dispCmd := rfl
@[simp] theorem advance_xferIdx : s.advance.xferIdx = s.xferIdx := rfl
@[simp] theorem advance_actlen : s.advance.actlen = s.actlen := rfl
@[simp] theorem advance_capIdx : s.advance.capIdx = s.capIdx := rfl
@[simp] theorem advance_playIdx : s.advance.playIdx = s.playIdx := rfl
@[simp] theorem advance_acqPrd : s.advance.acqPrd = s.acqPrd := rfl
@[simp] theorem advance_acqCnt : s.advance.acqCnt = s.acqCnt := rfl
@[simp] theorem advance_acqReq : s.advance.acqReq = s.acqReq := rfl
@[simp] theorem advance_playPrd : s.advance.playPrd = s.playPrd := rfl
@[simp] theorem advance_playCnt : s.advance.playCnt = s.playCnt := rfl
@[simp] theorem advance_playReq : s.advance.playReq = s.playReq := rfl
@[simp] theorem advance_gain : s.advance.gain = s.gain := rfl
@[simp] theorem advance_initDone : s.advance.initDone = s.initDone := rfl
@[simp] theorem advance_rxOverrun : s.advance.rxOverrun = s.rxOverrun := rfl
@[simp] theorem advance_cap : s.advance.cap = s.cap := rfl
@[simp] theorem advance_play : s.advance.play = s.play := rfl
@[simp] theorem advance_rxfifo : s.advance.rxfifo = s.rxfifo := rfl
@[simp] theorem advance_tx : s.advance.tx = s.tx := rfl
@[simp] theorem advance_dac : s.advance.dac = s.dac := rfl
@[simp] theorem advance_acks : s.advance.acks = s.acks := rfl
@[simp] theorem advance_resets : s.advance.resets = s.resets := rfl
@[simp] theorem advance_nanDraws : s.advance.nanDraws = s.nanDraws := rfl
@[simp] theorem advance_script : s.advance.script = s.script.tail := rfl
@[simp] theorem advance_turns : s.advance.turns = s.turns + 1 := rfl

end advance

end Sys2Proof.Machine
end

