-- ==== Sys2Proof/Laws/Ops.lean ====
section
/-!
SUPPORT. Everything each shared operation can do, said once: the accesses to the sample store, the end of a bulk step, the
frame of a command, the engines, the timers, and the step itself.
-/

namespace Sys2Proof.Machine

theorem capRead_eq_some {s : State} {i : Nat} {v : Sample} :
    capRead s i = some v ↔ i < Config.captureCapacity ∧ v = capSlot s i := by
  simp only [capRead, Config.capBase, Nat.zero_add]
  split <;> simp_all [eq_comm]

theorem playRead_eq_some {s : State} {i : Nat} {v : Sample} :
    playRead s i = some v ↔ i < Config.playbackCapacity ∧ v = playSlot s i := by
  simp only [playRead, Config.playBase, Nat.zero_add]
  split <;> simp_all [eq_comm]

theorem capWrite_eq_some {s t : State} {i : Nat} {v : Sample} :
    capWrite s i v = some t ↔ i < Config.captureCapacity ∧ t = { s with cap := Memory.write s.cap i v } := by
  simp only [capWrite, Config.capBase, Nat.zero_add]
  split <;> simp_all [eq_comm]

theorem playWrite_eq_some {s t : State} {i : Nat} {v : Sample} :
    playWrite s i v = some t ↔ i < Config.playbackCapacity ∧ t = { s with play := Memory.write s.play i v } := by
  simp only [playWrite, Config.playBase, Nat.zero_add]
  split <;> simp_all [eq_comm]

/-- The end of a bulk step releases or moves the index on. -/
theorem advanceXfer_cases (last : Nat) (s : State) :
    (s.xferIdx.toNat = last ∧ advanceXfer last s = release s) ∨
    (s.xferIdx.toNat ≠ last ∧ advanceXfer last s = nextXfer s) := by
  simp only [advanceXfer]
  split <;> simp_all

/-- What one step of a command can be: nothing, the parse of its header, or its action. -/
theorem runCommand_cases (c : Cmd) (len : Len) (action : State → Answer) (s : State) :
    (s.initDone = false ∧ runCommand c len action s = .next s) ∨
    (s.initDone = true ∧ s.dispCmd = .none ∧ runCommand c len action s = .next (publish c len s)) ∨
    (s.initDone = true ∧ s.dispCmd ≠ .none ∧ s.dispCmd = c ∧ runCommand c len action s = action s) ∨
    (s.initDone = true ∧ s.dispCmd ≠ .none ∧ s.dispCmd ≠ c ∧ runCommand c len action s = .next s) := by
  simp only [runCommand]
  by_cases hi : s.initDone = false
  · simp [hi]
  · have hi' : s.initDone = true := by simpa using hi
    by_cases hn : s.dispCmd = .none
    · simp [hi', hn]
    · by_cases hc : s.dispCmd = c
      · exact .inr (.inr (.inl ⟨hi', hn, hc, by rw [if_neg hi, if_neg hn, if_pos hc]⟩))
      · exact .inr (.inr (.inr ⟨hi', hn, hc, by rw [if_neg hi, if_neg hn, if_neg hc]⟩))

/-- What one step of an ignored header can be: nothing or its parse. -/
theorem runIgnored_cases (len : Len) (s : State) :
    runIgnored len s = .next s ∨
    (s.initDone = true ∧ s.dispCmd = .none ∧ runIgnored len s = .next (publish .none len s)) := by
  rcases runCommand_cases .none len (fun t => .next t) s with h | h | h | h
  · exact .inl h.2
  · exact .inr h
  · exact absurd h.2.2.1 h.2.1
  · exact .inl h.2.2.2

/-- What the action of RECEIVE_RATE can be: waiting, or two bytes taken and a release. -/
theorem recvRateAction_cases (s : State) :
    (s.rxfifo.length < 2 ∧ recvRateAction s = .next s) ∨
    ∃ p0 p1 rest, s.rxfifo = p0 :: p1 :: rest ∧
      ((rateValid (le16 p0 p1) = true ∧
          recvRateAction s = .next (release (setRate (le16 p0 p1) (withRx rest s)))) ∨
        (rateValid (le16 p0 p1) = false ∧ recvRateAction s = .next (release (withRx rest s)))) := by
  rcases h : s.rxfifo with _ | ⟨p0, _ | ⟨p1, rest⟩⟩
  · exact .inl ⟨by simp, by simp only [recvRateAction, h, popLe_short (w := Config.rateW) (bs := []) (by decide)]⟩
  · exact .inl ⟨by simp, by simp only [recvRateAction, h, popLe_short (w := Config.rateW) (show [p0].length < 2 by simp)]⟩
  · refine .inr ⟨p0, p1, rest, rfl, ?_⟩
    cases hv : rateValid (le16 p0 p1) <;> simp [recvRateAction, h, popLe_two bytesOf_rateW, hv]

/-- What the action of RECEIVE_WAVEFORM can be: waiting, a fault, or one sample stored. -/
theorem recvWaveAction_cases (s : State) :
    (s.rxfifo.length < 2 ∧ recvWaveAction s = .next s) ∨
    ∃ p0 p1 rest, s.rxfifo = p0 :: p1 :: rest ∧
      ((s.xferIdx.toNat < Config.playbackCapacity ∧
          recvWaveAction s = .next (advanceXfer (Config.playbackCapacity - 1)
            { s with rxfifo := rest, play := Memory.write s.play s.xferIdx.toNat (le16 p0 p1) })) ∨
        (Config.playbackCapacity ≤ s.xferIdx.toNat ∧ recvWaveAction s = .fault .playIndexOutOfRange)) := by
  rcases h : s.rxfifo with _ | ⟨p0, _ | ⟨p1, rest⟩⟩
  · exact .inl ⟨by simp, by simp only [recvWaveAction, h, popLe_short (w := Config.sampleW) (bs := []) (by decide)]⟩
  · exact .inl ⟨by simp, by simp only [recvWaveAction, h, popLe_short (w := Config.sampleW) (show [p0].length < 2 by simp)]⟩
  · refine .inr ⟨p0, p1, rest, rfl, ?_⟩
    by_cases hi : s.xferIdx.toNat < 200
    · exact .inl ⟨hi, by simp [recvWaveAction, h, popLe_two bytesOf_sampleW, playWrite, hi, withRx]⟩
    · exact .inr ⟨by simpa using hi, by simp [recvWaveAction, h, popLe_two bytesOf_sampleW, playWrite, hi]⟩

/-- What the action of SEND_WAVEFORM can be: one sample sent, or a fault. -/
theorem sendWaveAction_cases (s : State) :
    (s.xferIdx.toNat < Config.captureCapacity ∧
      sendWaveAction s =
        .next (advanceXfer (Config.captureCapacity - 1) (txEmit (capSlot s s.xferIdx.toNat) s))) ∨
    (Config.captureCapacity ≤ s.xferIdx.toNat ∧ sendWaveAction s = .fault .capIndexOutOfRange) := by
  by_cases hi : s.xferIdx.toNat < 100
  · exact .inl ⟨hi, by simp [sendWaveAction, capRead, hi]⟩
  · exact .inr ⟨by simpa using hi, by simp [sendWaveAction, capRead, hi]⟩

/-- What an acquisition tick can be: a sample stored, a fault, or a refusal. -/
theorem acqTick_cases (x : Sample) (s : State) :
    (rateValid s.actlen = true ∧ s.capIdx.toNat < Config.captureCapacity ∧
      acqTick x s = .next (finishAcq { s with cap := Memory.write s.cap s.capIdx.toNat x })) ∨
    (rateValid s.actlen = true ∧ Config.captureCapacity ≤ s.capIdx.toNat ∧
      acqTick x s = .fault .capIndexOutOfRange) ∨
    (rateValid s.actlen = false ∧ acqTick x s = .refused .activeLengthIllegal) := by
  cases hv : rateValid s.actlen
  · simp [acqTick, hv]
  · by_cases hi : s.capIdx.toNat < 100
    · simp [acqTick, hv, capWrite, hi]
    · exact .inr (.inl ⟨rfl, Nat.le_of_not_lt hi, by simp [acqTick, hv, capWrite, hi]⟩)

/-- What a playback tick can be: a converted word, a free word for a NaN product, or a fault. -/
theorem playTick_cases (s : State) :
    (s.playIdx.toNat < Config.playbackCapacity ∧
      ((∃ y, outConv (gainMul (playSlot s s.playIdx.toNat) s.gain) = some y ∧
          playTick s = .next (finishPlay y s)) ∨
        (outConv (gainMul (playSlot s s.playIdx.toNat) s.gain) = none ∧
          playTick s = .next (finishPlay (Config.nanWord s.nanDraws) (drawNan s))))) ∨
    (Config.playbackCapacity ≤ s.playIdx.toNat ∧ playTick s = .fault .playIndexOutOfRange) := by
  by_cases hi : s.playIdx.toNat < 200
  · refine .inl ⟨hi, ?_⟩
    cases ho : outConv (gainMul (playSlot s s.playIdx.toNat) s.gain) with
    | some y => exact .inl ⟨y, rfl, by simp [playTick, playRead, hi, ho]⟩
    | none => exact .inr ⟨rfl, by simp [playTick, playRead, hi, ho]⟩
  · exact .inr ⟨by simpa using hi, by simp [playTick, playRead, hi]⟩

/-- What one step of any instruction can be: nothing, the parse of a header, or one of the four actions. -/
theorem exec_cases (i : Instr) (s : State) :
    exec i s = .next s ∨
    (s.initDone = true ∧ s.dispCmd = .none ∧ ∃ c, exec i s = .next (publish c i.lenField s)) ∨
    (s.initDone = true ∧ s.dispCmd = .receiveRate ∧ exec i s = recvRateAction s) ∨
    (s.initDone = true ∧ s.dispCmd = .sendRate ∧ exec i s = sendRateAction s) ∨
    (s.initDone = true ∧ s.dispCmd = .receiveWaveform ∧ exec i s = recvWaveAction s) ∨
    (s.initDone = true ∧ s.dispCmd = .sendWaveform ∧ exec i s = sendWaveAction s) := by
  have ignored (len : Len) (hl : len = i.lenField) (he : exec i s = runIgnored len s) :
      exec i s = .next s ∨
        (s.initDone = true ∧ s.dispCmd = .none ∧ ∃ c, exec i s = .next (publish c i.lenField s)) := by
    rcases runIgnored_cases len s with h | h
    · exact .inl (he.trans h)
    · exact .inr ⟨h.1, h.2.1, .none, by rw [he, h.2.2, hl]⟩
  have command (c : Cmd) (len : Len) (hl : len = i.lenField) (action : State → Answer)
      (he : exec i s = runCommand c len action s) :
      exec i s = .next s ∨
        (s.initDone = true ∧ s.dispCmd = .none ∧ ∃ c, exec i s = .next (publish c i.lenField s)) ∨
        (s.initDone = true ∧ s.dispCmd = c ∧ exec i s = action s) := by
    rcases runCommand_cases c len action s with h | h | h | h
    · exact .inl (he.trans h.2)
    · exact .inr (.inl ⟨h.1, h.2.1, c, by rw [he, h.2.2, hl]⟩)
    · exact .inr (.inr ⟨h.1, h.2.2.1, he.trans h.2.2.2⟩)
    · exact .inl (he.trans h.2.2.2)
  cases i with
  | receiveRate len => rcases command .receiveRate len rfl recvRateAction rfl with h | h | h <;> simp [h]
  | sendRate len => rcases command .sendRate len rfl sendRateAction rfl with h | h | h <;> simp [h]
  | receiveWaveform len => rcases command .receiveWaveform len rfl recvWaveAction rfl with h | h | h <;> simp [h]
  | sendWaveform len => rcases command .sendWaveform len rfl sendWaveAction rfl with h | h | h <;> simp [h]
  | none len => rcases ignored len rfl rfl with h | h <;> simp [h]
  | invalid05 len => rcases ignored len rfl rfl with h | h <;> simp [h]
  | invalid06to07 _ len => rcases ignored len rfl rfl with h | h <;> simp [h]
  | invalid08to0F _ len => rcases ignored len rfl rfl with h | h <;> simp [h]
  | invalid10to1F _ len => rcases ignored len rfl rfl with h | h <;> simp [h]
  | invalid20to3F _ len => rcases ignored len rfl rfl with h | h <;> simp [h]
  | invalid40to7F _ len => rcases ignored len rfl rfl with h | h <;> simp [h]
  | invalid80toFF _ len => rcases ignored len rfl rfl with h | h <;> simp [h]

/-- The guard of a step, read off a state. -/
theorem enabled_advance (e : Event) (s : State) : e.enabled s.advance = e.enabled s := by
  cases e <;> rfl

/-- An event whose guard does not hold. -/
theorem perform_notEnabled {e : Event} {s : State} : e.enabled s = false →
    perform e s = match e with
      | .hostPush _ => .refused .byteBeforeStartUp
      | _ => .next s := by
  intro h
  simp only [perform, eventAction, h, notEnabled]
  cases e <;> rfl

/-- An event whose guard holds. -/
theorem perform_enabled {e : Event} {s : State} : e.enabled s = true →
    perform e s = match takeEvent e s with
      | .run i t => exec i t
      | .answer o => o := by
  intro h
  exact congrArg (fun a : Action => match a with | .run i t => exec i t | .answer o => o)
    (if_pos h : eventAction e s = takeEvent e s)

/-- A step whose event's guard does not hold. -/
theorem step_notEnabled {s : State} (h : (nextEvent s).enabled s = false) :
    step s = match nextEvent s with
      | .hostPush _ => .refused .byteBeforeStartUp
      | _ => .next s.advance :=
  perform_notEnabled (by rw [enabled_advance, h])

/-- A step whose event's guard holds. -/
theorem step_enabled {s : State} (h : (nextEvent s).enabled s = true) :
    step s = match takeEvent (nextEvent s) s.advance with
      | .run i t => exec i t
      | .answer o => o :=
  perform_enabled (by rw [enabled_advance, h])

/-- A step of the model without time whose guard holds. -/
theorem performUntimed_enabled {u : UntimedEvent} {s : State} (h : u.enabled s = true) :
    performUntimed u s = takeUntimed u s := if_pos h

/-- A step of the model without time whose guard does not hold. -/
theorem performUntimed_notEnabled {u : UntimedEvent} {s : State} (h : u.enabled s = false) :
    performUntimed u s = .next s := if_neg (by simp [h])

@[simp] theorem runUntimed_nil (s : State) : runUntimed [] s = .next s := rfl

/-- One step of the model without time at the front of a run. -/
theorem runUntimed_cons {u : UntimedEvent} {us : List UntimedEvent} {s t : State}
    (h : performUntimed u s = .next t) : runUntimed (u :: us) s = runUntimed us t := by
  simp only [runUntimed, h]

/-- A scripted event comes next. -/
theorem nextEvent_of_script {s : State} {e : Event} {rest : List Event} (h : s.script = e :: rest) :
    nextEvent s = e := by simp [nextEvent, h]

/-- The fetch of three bytes. -/
theorem fetchHeader_cons {s : State} {b0 b1 b2 : Byte} {rest : List Byte} (h : s.rxfifo = b0 :: b1 :: b2 :: rest) :
    fetchHeader s = some (decodeHeader b0 (le16 b1 b2), withRx rest s) := by
  simp [fetchHeader, decode_cons, h]

/-- The fetch of fewer than three bytes. -/
theorem fetchHeader_short {s : State} (h : s.rxfifo.length < 3) : fetchHeader s = none := by
  simp only [fetchHeader, decode_short h]

/-- Either half of a clock edge leaves everything but its own counter and request. -/
theorem acqEdge_eq (s : State) :
    acqEdge s = { s with
      acqCnt := if s.acqCnt = 0 then s.acqPrd else s.acqCnt - 1
      acqReq := if s.acqCnt = 0 then true else s.acqReq } := by
  simp only [acqEdge]
  split <;> rfl

theorem playEdge_eq (s : State) :
    playEdge s = { s with
      playCnt := if s.playCnt = 0 then s.playPrd else s.playCnt - 1
      playReq := if s.playCnt = 0 then true else s.playReq } := by
  simp only [playEdge]
  split <;> rfl

/-- The arrival of a byte changes the FIFO or the overrun mark. -/
theorem rxArrive_eq (depth : Nat) (b : Byte) (s : State) :
    rxArrive depth b s = { s with
      rxfifo := if s.rxfifo.length < depth then s.rxfifo ++ [b] else s.rxfifo
      rxOverrun := if s.rxfifo.length < depth then s.rxOverrun else true } := by
  simp only [rxArrive]
  split <;> rfl

/-- A claim changes the dispatcher's two registers or nothing. -/
theorem claim_eq (s : State) :
    claim s = { s with
      dispCmd := if s.pendCmd = .none then s.dispCmd else s.pendCmd
      xferIdx := if s.pendCmd = .none then s.xferIdx else 0 } := by
  simp only [claim]
  split <;> rfl

end Sys2Proof.Machine
end

