-- ==== Sys2Proof/Laws/PerInstr.lean ====
section
/-!
SUPPORT. Per instruction: a header is three bytes, and its id byte decodes to the command it is stored as (spec
30_encoding.md R62, R65).
-/

namespace Sys2Proof.Laws.StoredCommand

/-- The command an instruction is stored as (R65). -/
def storedAs : Instr → Machine.Cmd
  | .none _ => .none
  | .receiveRate _ => .receiveRate
  | .sendRate _ => .sendRate
  | .receiveWaveform _ => .receiveWaveform
  | .sendWaveform _ => .sendWaveform
  | .invalid05 _ => .none
  | .invalid06to07 _ _ => .none
  | .invalid08to0F _ _ => .none
  | .invalid10to1F _ _ => .none
  | .invalid20to3F _ _ => .none
  | .invalid40to7F _ _ => .none
  | .invalid80toFF _ _ => .none

/-- A well-formed instruction's header has three bytes and its id byte decodes to the command it is stored as. -/
def Statement (i : Instr) : Prop :=
  i.wf = true → (encode i).length = Config.headerSize ∧ Machine.decodeCmd i.idByte = storedAs i

/-- Ids above 4 are stored as `NONE` (R65). -/
theorem decodeCmd_of_invalid {id : CmdId} (h : 5 ≤ id.toNat) : Machine.decodeCmd id = .none := by
  have ne (k : CmdId) (hk : k.toNat < 5) : id ≠ k := fun he => by rw [he] at h; omega
  rw [Machine.decodeCmd, if_neg (ne _ (by decide)), if_neg (ne _ (by decide)), if_neg (ne _ (by decide)),
    if_neg (ne _ (by decide))]

theorem idWithin_least {lo hi : Nat} {id : CmdId} (h : idWithin lo hi id = true) : lo ≤ id.toNat := by
  simp only [idWithin, Bool.and_eq_true, decide_eq_true_eq] at h
  exact h.1

theorem none (len : Len) : Statement (.none len) := fun _ => ⟨encode_length _, rfl⟩
theorem receiveRate (len : Len) : Statement (.receiveRate len) := fun _ => ⟨encode_length _, rfl⟩
theorem sendRate (len : Len) : Statement (.sendRate len) := fun _ => ⟨encode_length _, rfl⟩
theorem receiveWaveform (len : Len) : Statement (.receiveWaveform len) := fun _ => ⟨encode_length _, rfl⟩
theorem sendWaveform (len : Len) : Statement (.sendWaveform len) := fun _ => ⟨encode_length _, rfl⟩
theorem invalid05 (len : Len) : Statement (.invalid05 len) := fun _ => ⟨encode_length _, rfl⟩
theorem invalid06to07 (id : CmdId) (len : Len) : Statement (.invalid06to07 id len) := fun h =>
  ⟨encode_length _, decodeCmd_of_invalid (Nat.le_trans (by decide) (idWithin_least h))⟩
theorem invalid08to0F (id : CmdId) (len : Len) : Statement (.invalid08to0F id len) := fun h =>
  ⟨encode_length _, decodeCmd_of_invalid (Nat.le_trans (by decide) (idWithin_least h))⟩
theorem invalid10to1F (id : CmdId) (len : Len) : Statement (.invalid10to1F id len) := fun h =>
  ⟨encode_length _, decodeCmd_of_invalid (Nat.le_trans (by decide) (idWithin_least h))⟩
theorem invalid20to3F (id : CmdId) (len : Len) : Statement (.invalid20to3F id len) := fun h =>
  ⟨encode_length _, decodeCmd_of_invalid (Nat.le_trans (by decide) (idWithin_least h))⟩
theorem invalid40to7F (id : CmdId) (len : Len) : Statement (.invalid40to7F id len) := fun h =>
  ⟨encode_length _, decodeCmd_of_invalid (Nat.le_trans (by decide) (idWithin_least h))⟩
theorem invalid80toFF (id : CmdId) (len : Len) : Statement (.invalid80toFF id len) := fun h =>
  ⟨encode_length _, decodeCmd_of_invalid (Nat.le_trans (by decide) (idWithin_least h))⟩

end Sys2Proof.Laws.StoredCommand
end

