-- ==== Sys2Proof/Laws/Run.lean ====
section
/-!
SUPPORT. Runs of several steps, one step or one part at a time.
-/

namespace Sys2Proof.Laws

theorem run_of_next {M : Host.Core} (n : Nat) {s t : M.State} (h : M.step s = .next t) :
    M.run (n + 1) s = M.run n t := by
  rw [Host.Core.run, h]

theorem run_zero {M : Host.Core} (s : M.State) : M.run 0 s = .next s := rfl

/-- A run goes on from where its first part arrives. -/
theorem run_add {M : Host.Core} (n : Nat) : ∀ (m : Nat) {s t : M.State},
    M.run m s = .next t → M.run (m + n) s = M.run n t
  | 0, s, t, h => by
    cases h
    rw [Nat.zero_add]
  | m + 1, s, t, h => by
    cases hs : M.step s with
    | next u =>
      rw [run_of_next m hs] at h
      rw [Nat.add_right_comm, run_of_next (m + n) hs, run_add n m h]
    | fault r =>
      rw [Host.Core.run, hs] at h
      cases h
    | refused r =>
      rw [Host.Core.run, hs] at h
      cases h

end Sys2Proof.Laws

namespace Sys2Proof.Machine

/-- One step at the front of a run. -/
theorem runFor_succ (n : Nat) {s t : State} (h : step s = .next t) : runFor (n + 1) s = runFor n t :=
  Laws.run_of_next (M := Sys2Proof.core) n h

@[simp] theorem runFor_zero (s : State) : runFor 0 s = .next s := rfl

/-- A run goes on from where its first part arrives. -/
theorem runFor_add (n : Nat) {m : Nat} {s t : State} (h : runFor m s = .next t) : runFor (m + n) s = runFor n t :=
  Laws.run_add (M := Sys2Proof.core) n m h

end Sys2Proof.Machine
end

