-- ==== Sys2Proof/Laws/Step.lean ====
section
/-!
SUPPORT. The inversion lemma of the step: if a step answers a next state, one of these cases holds.
-/

namespace Sys2Proof.Machine

/-- Every next state a step of `s` can answer, case by case. Each case but `idle` names its event and what its guard gives;
`s.advance` is `s` with the turn counted and the script one event shorter. -/
inductive StepResult (s : State) : State → Prop where
  /-- The guard did not hold, or a claim found nothing pending. -/
  | idle (quiet : (nextEvent s).enabled s = false ∨ (nextEvent s = .claim ∧ s.pendCmd = .none)) :
      StepResult s s.advance
  | push (b : Byte) (event : nextEvent s = .hostPush b) (init : s.initDone = true) :
      StepResult s (hostPush b s.advance)
  | parse (b0 b1 b2 : Byte) (rest : List Byte) (event : nextEvent s = .rxHeader)
      (init : s.initDone = true) (polling : s.dispCmd = .none) (bytes : s.rxfifo = b0 :: b1 :: b2 :: rest) :
      StepResult s (publish (decodeCmd b0) (le16 b1 b2) (withRx rest s.advance))
  | claimed (event : nextEvent s = .claim) (init : s.initDone = true) (polling : s.dispCmd = .none)
      (pending : s.pendCmd ≠ .none) :
      StepResult s { s.advance with dispCmd := s.pendCmd, xferIdx := 0 }
  | rateSet (p0 p1 : Byte) (rest : List Byte) (event : nextEvent s = .execRecvRate) (init : s.initDone = true)
      (busy : s.dispCmd = .receiveRate) (bytes : s.rxfifo = p0 :: p1 :: rest)
      (valid : rateValid (le16 p0 p1) = true) :
      StepResult s (release (setRate (le16 p0 p1) (withRx rest s.advance)))
  | rateIgnored (p0 p1 : Byte) (rest : List Byte) (event : nextEvent s = .execRecvRate) (init : s.initDone = true)
      (busy : s.dispCmd = .receiveRate) (bytes : s.rxfifo = p0 :: p1 :: rest)
      (invalid : rateValid (le16 p0 p1) = false) :
      StepResult s (release (withRx rest s.advance))
  | rateSent (event : nextEvent s = .execSendRate) (init : s.initDone = true) (busy : s.dispCmd = .sendRate) :
      StepResult s (release (txEmit s.actlen s.advance))
  | sampleStored (p0 p1 : Byte) (rest : List Byte) (event : nextEvent s = .execRecvWave) (init : s.initDone = true)
      (busy : s.dispCmd = .receiveWaveform) (bytes : s.rxfifo = p0 :: p1 :: rest)
      (inside : s.xferIdx.toNat < Config.playbackCapacity) :
      StepResult s (advanceXfer (Config.playbackCapacity - 1)
        { s.advance with rxfifo := rest, play := Memory.write s.play s.xferIdx.toNat (le16 p0 p1) })
  | sampleSent (event : nextEvent s = .execSendWave) (init : s.initDone = true) (busy : s.dispCmd = .sendWaveform)
      (inside : s.xferIdx.toNat < Config.captureCapacity) :
      StepResult s (advanceXfer (Config.captureCapacity - 1)
        (txEmit (capSlot s s.xferIdx.toNat) s.advance))
  | sampleTaken (x : Sample) (event : nextEvent s = .acqTick x) (init : s.initDone = true)
      (requested : s.acqReq = true) (legal : rateValid s.actlen = true)
      (inside : s.capIdx.toNat < Config.captureCapacity) :
      StepResult s (finishAcq { s.advance with cap := Memory.write s.cap s.capIdx.toNat x })
  | samplePlayed (y : Sample) (event : nextEvent s = .playTick) (init : s.initDone = true)
      (requested : s.playReq = true) (inside : s.playIdx.toNat < Config.playbackCapacity)
      (word : outConv (gainMul (playSlot s s.playIdx.toNat) s.gain) = some y) :
      StepResult s (finishPlay y s.advance)
  | nanPlayed (event : nextEvent s = .playTick) (init : s.initDone = true)
      (requested : s.playReq = true) (inside : s.playIdx.toNat < Config.playbackCapacity)
      (noWord : outConv (gainMul (playSlot s s.playIdx.toNat) s.gain) = none) :
      StepResult s (finishPlay (Config.nanWord s.nanDraws) (drawNan s.advance))
  | edge (event : nextEvent s = .clockEdge) (init : s.initDone = true) : StepResult s (clockEdge s.advance)
  | gainDriven (g : Word) (event : nextEvent s = .gainDrive g) : StepResult s (gainDrive g s.advance)
  | started (event : nextEvent s = .initDone) (init : s.initDone = false) : StepResult s (setInitDone s.advance)
  | wasReset (event : nextEvent s = .reset) : StepResult s (resetBlock s.advance)

theorem capSlot_advance (s : State) (a : Nat) : capSlot s.advance a = capSlot s a := rfl

theorem playSlot_advance (s : State) (a : Nat) : playSlot s.advance a = playSlot s a := rfl

/-- In a polling state after start-up every instruction publishes the command it is stored as. -/
theorem exec_publishes {s : State} (i : Instr) (init : s.initDone = true) (polling : s.dispCmd = .none) :
    exec i s = .next (publish (Laws.StoredCommand.storedAs i) i.lenField s) := by
  cases i <;>
    simp only [exec, execNone, execReceiveRate, execSendRate, execReceiveWaveform, execSendWaveform, execInvalid05,
      execInvalid06to07, execInvalid08to0F, execInvalid10to1F, execInvalid20to3F, execInvalid40to7F, execInvalid80toFF,
      runIgnored, runCommand, init, polling, Bool.true_eq_false, if_false, if_true] <;> rfl

theorem lenField_decodeHeader (b : CmdId) (len : Len) : (decodeHeader b len).lenField = len := by
  unfold decodeHeader
  repeat' split
  all_goals rfl

/-- The decoder and `DecodeCmd` agree on what a header is stored as. -/
theorem storedAs_decodeHeader (b : CmdId) (len : Len) :
    Laws.StoredCommand.storedAs (decodeHeader b len) = decodeCmd b := by
  by_cases h1 : b = Config.commandId .receiveRate
  · subst h1; rfl
  by_cases h2 : b = Config.commandId .sendRate
  · subst h2; rfl
  by_cases h3 : b = Config.commandId .receiveWaveform
  · subst h3; rfl
  by_cases h4 : b = Config.commandId .sendWaveform
  · subst h4; rfl
  rw [decodeHeader, if_neg h1, if_neg h2, if_neg h3, if_neg h4, decodeCmd, if_neg h1, if_neg h2, if_neg h3, if_neg h4]
  repeat' split
  all_goals rfl

/-- Inversion of the step. -/
theorem step_result {s t : State} (h : step s = .next t) : StepResult s t := by
  cases hen : (nextEvent s).enabled s with
  | false =>
    rw [step_notEnabled hen] at h
    split at h
    · cases h
    · cases h
      exact .idle (.inl hen)
  | true =>
    rw [step_enabled hen] at h
    cases hev : nextEvent s <;>
      simp only [hev, takeEvent, Event.enabled, Bool.and_eq_true, beq_iff_eq, Bool.not_eq_true'] at h hen
    case hostPush b =>
      cases h
      exact .push b hev hen
    case rxHeader =>
      obtain ⟨⟨init, hlen⟩, hold⟩ := hen
      have polling : s.dispCmd = .none := by simpa [rxHold] using hold
      obtain ⟨b0, b1, b2, rest, hf⟩ : ∃ b0 b1 b2 rest, s.rxfifo = b0 :: b1 :: b2 :: rest := by
        rcases hf : s.rxfifo with _ | ⟨b0, _ | ⟨b1, _ | ⟨b2, rest⟩⟩⟩
        case cons.cons.cons => exact ⟨b0, b1, b2, rest, rfl⟩
        all_goals
          rw [rxTrigger, decide_eq_true_eq, hf] at hlen
          exact absurd hlen (by simp)
      rw [fetchHeader_cons (s := s.advance) (by simpa using hf)] at h
      have he := exec_publishes (s := withRx rest s.advance) (decodeHeader b0 (le16 b1 b2)) (by simpa using init)
        (by simpa using polling)
      rw [lenField_decodeHeader, storedAs_decodeHeader] at he
      cases he.symm.trans h
      exact .parse b0 b1 b2 rest hev init polling hf
    case claim =>
      cases h
      by_cases hp : s.pendCmd = .none
      · simp only [claim, advance_pendCmd, hp, if_true]
        exact .idle (.inr ⟨hev, hp⟩)
      · simp only [claim, advance_pendCmd, hp, if_false]
        exact .claimed hev hen.1 hen.2 hp
    case execRecvRate =>
      obtain ⟨⟨init, busy⟩, hlen⟩ := hen
      simp only [exec, execReceiveRate, runCommand, advance_initDone, init, advance_dispCmd, busy] at h
      replace h : recvRateAction s.advance = .next t := by simpa using h
      rcases recvRateAction_cases s.advance with ⟨hs, -⟩ | ⟨p0, p1, rest, hf, ⟨hv, he⟩ | ⟨hv, he⟩⟩
      · simp [payloadReady] at hlen hs
        omega
      · rw [he] at h
        cases h
        exact .rateSet p0 p1 rest hev init busy hf hv
      · rw [he] at h
        cases h
        exact .rateIgnored p0 p1 rest hev init busy hf hv
    case execSendRate =>
      obtain ⟨init, busy⟩ := hen
      simp only [exec, execSendRate, runCommand, advance_initDone, init, advance_dispCmd, busy] at h
      replace h : sendRateAction s.advance = .next t := by simpa using h
      cases h
      exact .rateSent hev init busy
    case execRecvWave =>
      obtain ⟨⟨init, busy⟩, hlen⟩ := hen
      simp only [exec, execReceiveWaveform, runCommand, advance_initDone, init, advance_dispCmd, busy] at h
      replace h : recvWaveAction s.advance = .next t := by simpa using h
      rcases recvWaveAction_cases s.advance with ⟨hs, -⟩ | ⟨p0, p1, rest, hf, ⟨hi, he⟩ | ⟨hi, he⟩⟩
      · simp [payloadReady] at hlen hs
        omega
      · rw [he] at h
        cases h
        exact .sampleStored p0 p1 rest hev init busy hf hi
      · rw [he] at h
        cases h
    case execSendWave =>
      obtain ⟨init, busy⟩ := hen
      simp only [exec, execSendWaveform, runCommand, advance_initDone, init, advance_dispCmd, busy] at h
      replace h : sendWaveAction s.advance = .next t := by simpa using h
      rcases sendWaveAction_cases s.advance with ⟨hi, he⟩ | ⟨hi, he⟩
      · rw [he] at h
        cases h
        exact .sampleSent hev init busy hi
      · rw [he] at h
        cases h
    case acqTick x =>
      rcases acqTick_cases x s.advance with ⟨hv, hi, he⟩ | ⟨hv, hi, he⟩ | ⟨hv, he⟩ <;> rw [he] at h <;> cases h
      exact .sampleTaken x hev hen.1 hen.2 hv hi
    case playTick =>
      rcases playTick_cases s.advance with ⟨hi, ⟨y, ho, he⟩ | ⟨ho, he⟩⟩ | ⟨hi, he⟩ <;> rw [he] at h <;> cases h
      · exact .samplePlayed y hev hen.1 hen.2 hi ho
      · exact .nanPlayed hev hen.1 hen.2 hi ho
    case clockEdge =>
      cases h
      exact .edge hev hen
    case gainDrive g =>
      cases h
      exact .gainDriven g hev
    case initDone =>
      cases h
      exact .started hev hen
    case reset =>
      cases h
      exact .wasReset hev

end Sys2Proof.Machine
end

