-- ==== Sys2Proof/Tests/Slice0.lean ====
section
/-!
SUPPORT. Tests. Expected results are the vectors of spec 95 (V1 to V8) and the encoding tables of 30_encoding.md, not the
model's own answers. After them, for every obligation with hypotheses, one named witness that meets them together.
-/

namespace Sys2Proof.Tests

open Sys2Proof Sys2Proof.Machine

/-- An idle block after start-up, every field a numeral. -/
def base : State where
  pendCmd := .none
  pendLen := 0
  rxstat := false
  dispCmd := .none
  xferIdx := 0
  actlen := 100
  capIdx := 0
  playIdx := 0
  acqPrd := 1999
  acqCnt := 1999
  acqReq := false
  playPrd := 9
  playCnt := 9
  playReq := false
  gain := 0x3F800000
  initDone := true
  rxOverrun := false
  cap := []
  play := []
  rxfifo := []
  tx := []
  dac := []
  acks := []
  resets := 0
  nanDraws := 0
  script := []
  turns := 0

/-- `s` with the events that come next. -/
def facing (s : State) (es : List Event) : State := { s with script := es }

/-- A field of the state after one step. -/
def after {α : Type} (s : State) (f : State → α) : Option α :=
  match step s with
  | .next t => some (f t)
  | _ => none

/-- A field of the state an instruction leaves. -/
def execAfter {α : Type} (i : Instr) (s : State) (f : State → α) : Option α :=
  match exec i s with
  | .next t => some (f t)
  | _ => none

/-! ## Well-formedness: an ill-formed term for each check -/

theorem test_wf_refuses_06_07 :
    (Instr.invalid06to07 5 0).wf = false ∧ (Instr.invalid06to07 8 0).wf = false := by decide
theorem test_wf_refuses_08_0F :
    (Instr.invalid08to0F 7 0).wf = false ∧ (Instr.invalid08to0F 16 0).wf = false := by decide
theorem test_wf_refuses_10_1F :
    (Instr.invalid10to1F 15 0).wf = false ∧ (Instr.invalid10to1F 32 0).wf = false := by decide
theorem test_wf_refuses_20_3F :
    (Instr.invalid20to3F 31 0).wf = false ∧ (Instr.invalid20to3F 64 0).wf = false := by decide
theorem test_wf_refuses_40_7F :
    (Instr.invalid40to7F 63 0).wf = false ∧ (Instr.invalid40to7F 128 0).wf = false := by decide
theorem test_wf_refuses_80_FF :
    (Instr.invalid80toFF 127 0).wf = false ∧ (Instr.invalid80toFF 0 0).wf = false := by decide

/-! ## Decoding: one word written out for every constructor (30_encoding.md R63, R64; 95 V1) -/

theorem test_decode_none : decode [0x00, 0xAA, 0x55] = .ok (.none 21930, []) := by decide
theorem test_decode_receiveRate : decode [0x01, 0x00, 0x01] = .ok (.receiveRate 256, []) := by decide
theorem test_decode_sendRate : decode [0x02, 0x00, 0x00] = .ok (.sendRate 0, []) := by decide
theorem test_decode_receiveWaveform : decode [0x03, 0x90, 0x01] = .ok (.receiveWaveform 400, []) := by decide
theorem test_decode_sendWaveform : decode [0x04, 0x00, 0x00, 0x02] = .ok (.sendWaveform 0, [0x02]) := by decide
theorem test_decode_invalid05 : decode [0x05, 0x00, 0x00] = .ok (.invalid05 0, []) := by decide
theorem test_decode_invalid06to07 : decode [0x07, 0x34, 0x12] = .ok (.invalid06to07 7 4660, []) := by decide
theorem test_decode_invalid08to0F : decode [0x0F, 0x01, 0x00] = .ok (.invalid08to0F 15 1, []) := by decide
theorem test_decode_invalid10to1F : decode [0x10, 0x00, 0x80] = .ok (.invalid10to1F 16 32768, []) := by decide
theorem test_decode_invalid20to3F : decode [0x3F, 0x02, 0x00] = .ok (.invalid20to3F 63 2, []) := by decide
theorem test_decode_invalid40to7F : decode [0x40, 0x03, 0x00] = .ok (.invalid40to7F 64 3, []) := by decide
theorem test_decode_invalid80toFF : decode [0xFF, 0xFF, 0xFF] = .ok (.invalid80toFF 255 65535, []) := by decide
theorem test_decode_needs_three_bytes : decode [0x01, 0x02] = .error .incompleteHeader := by decide

/-- R64's ids, which the decoder and the opcode table take from one place. -/
theorem test_commandIds :
    [Cmd.none, .receiveRate, .sendRate, .receiveWaveform, .sendWaveform].map Config.commandId = [0, 1, 2, 3, 4] ∧
      Config.clockLeast = 5000 := by decide

/-- The header word of R63: byte 0 in bits 7:0, so 0x019003 is `03 90 01`. -/
theorem test_decodeTableWord : decodeTableWord 24 0x019003 = some (.receiveWaveform 400) ∧
    decodeTableWord 8 0x04 = some (.sendWaveform 0) := by decide

theorem test_encode : encode (.receiveWaveform 400) = [0x03, 0x90, 0x01] ∧
    encode (.invalid06to07 7 4660) = [0x07, 0x34, 0x12] := by decide

/-- A word placed after reset is what the very next step runs. -/
theorem test_withFetchWord :
    step (State.reset.withFetchWord 24 0x019003) =
      exec (.receiveWaveform 400)
        { State.reset with initDone := true, turns := 1 } := rfl

theorem test_withFetchWord_completes :
    after (State.reset.withFetchWord 24 0x019003) (fun t => (t.pendCmd, t.pendLen, t.rxstat, t.acks)) =
      some (.receiveWaveform, 400, true, [.rxIrq]) := by decide

/-! ## Parsing and holding (95 V1, V2) -/

/-- V1.10: only the oldest three bytes are taken. -/
theorem test_V1_10 :
    after (facing { base with rxfifo := [0x04, 0x00, 0x00, 0x02] } [.rxHeader])
      (fun t => (t.pendCmd, t.pendLen, t.rxstat, t.rxfifo, t.acks)) =
        some (.sendWaveform, 0, true, [0x02], [.rxIrq]) := by decide

/-- V1.7: the length is kept although the id is invalid. -/
theorem test_V1_7 :
    after (facing { base with rxfifo := [0x07, 0x34, 0x12] } [.rxHeader]) (fun t => (t.pendCmd, t.pendLen, t.rxfifo)) =
      some (.none, 4660, []) := by decide

/-- V2.3, its hold: a header behind a claimed command is not taken. -/
theorem test_V2_3_hold :
    after (facing { base with dispCmd := .sendRate, rxfifo := [0x04, 0x00, 0x00] } [.rxHeader])
      (fun t => (t.rxfifo, t.pendCmd)) = some ([0x04, 0x00, 0x00], .none) := by decide

/-- V2.5: a byte that finds a FIFO of depth 4 full is dropped. -/
theorem test_V2_5 :
    let t := rxArrive 4 0x00 { base with rxfifo := [0x04, 0x00, 0x00, 0x02], dispCmd := .sendWaveform }
    t.rxfifo = [0x04, 0x00, 0x00, 0x02] ∧ t.rxOverrun = true := by decide

/-- V2.6: a byte that finds one place left is queued. -/
theorem test_V2_6 :
    let t := rxArrive 4 0x02 { base with rxfifo := [0x04, 0x00, 0x00] }
    t.rxfifo = [0x04, 0x00, 0x00, 0x02] ∧ t.rxOverrun = false := by decide

/-! ## Commands (95 V3) -/

/-- V3.12 and V3.13. -/
theorem test_V3_12 :
    after (facing { base with pendCmd := .sendRate, xferIdx := 9 } [.claim]) (fun t => (t.dispCmd, t.xferIdx, t.pendCmd)) =
      some (.sendRate, 0, .sendRate) := by decide
theorem test_V3_13 : after (facing base [.claim]) State.dispCmd = some .none := by decide

/-- V3.14: the dispatcher waits for the second byte, then takes both. -/
theorem test_V3_14_waits :
    after (facing { base with dispCmd := .receiveRate, rxfifo := [0x04] } [.execRecvRate])
      (fun t => (t.actlen, t.dispCmd, t.rxfifo)) = some (100, .receiveRate, [0x04]) := by decide
theorem test_V3_14 :
    after (facing { base with dispCmd := .receiveRate, rxfifo := [0x04, 0x00] } [.execRecvRate])
      (fun t => (t.actlen, t.dispCmd, t.rxfifo, t.acks)) = some (4, .none, [], [.rxStatus]) := by decide

/-- V3.8: N = 260 is ignored, the high byte counts. -/
theorem test_V3_8 :
    execAfter (.receiveRate 2) { base with dispCmd := .receiveRate, rxfifo := [0x04, 0x01] }
      (fun t => (t.actlen, t.acqPrd, t.dispCmd)) = some (100, 1999, .none) := by decide

/-- V3.11: the length after reset goes out as `64 00`. -/
theorem test_V3_11 :
    execAfter (.sendRate 0) { base with dispCmd := .sendRate } (fun t => (t.tx, t.dispCmd)) =
      some ([0x64, 0x00], .none) := by decide

/-- V3.15 and V3.16. -/
theorem test_V3_15 :
    after (facing { base with dispCmd := .receiveWaveform, xferIdx := 5, rxfifo := [0xFE, 0xFF] } [.execRecvWave])
      (fun t => (toSigned16 (playSlot t 5), t.xferIdx, t.dispCmd)) = some (-2, 6, .receiveWaveform) := by decide
theorem test_V3_16 :
    after (facing { base with
        dispCmd := .receiveWaveform, pendCmd := .receiveWaveform, xferIdx := 199
        rxfifo := [0x2A, 0x00, 0x02, 0x00, 0x00], rxstat := true } [.execRecvWave])
      (fun t => ((playSlot t 199, t.rxfifo, t.xferIdx), (t.dispCmd, t.pendCmd, t.rxstat))) =
        some ((42, [0x02, 0x00, 0x00], 0), (.none, .none, false)) := by decide

/-- V3.17 and V3.18. -/
theorem test_V3_17 :
    after (facing { base with dispCmd := .sendWaveform, xferIdx := 7, cap := [(7, 258)] } [.execSendWave])
      (fun t => (t.tx, t.xferIdx, t.dispCmd)) = some ([0x02, 0x01], 8, .sendWaveform) := by decide
theorem test_V3_18 :
    after (facing { base with dispCmd := .sendWaveform, xferIdx := 99, cap := [(99, 0xFFFE)] } [.execSendWave])
      (fun t => (t.tx, t.dispCmd, t.xferIdx)) = some ([0xFE, 0xFF], .none, 0) := by decide

/-- One invalid command: parsed, and nothing starts (R95). -/
theorem test_invalid_command_publishes_none :
    execAfter (.invalid80toFF 0x80 1) base (fun t => (t.pendCmd, t.pendLen, t.dispCmd, t.tx)) =
      some (.none, 1, .none, []) := by decide

/-! ## Index, ticks, timers and periods (95 V4 to V7) -/

theorem test_V4 :
    nextIdx 98 100 = 99 ∧ nextIdx 99 100 = 0 ∧ nextIdx 0 1 = 0 ∧ nextIdx 80 10 = 1 ∧ nextIdx 99 7 = 2 ∧
      nextIdx 199 200 = 0 := by decide

/-- V5.1. -/
theorem test_V5_1 :
    after (facing { base with actlen := 4, capIdx := 3, acqReq := true } [.acqTick 77])
      (fun t => (capSlot t 3, t.capIdx, t.acqReq, t.acks)) = some (77, 0, false, [.conv, .acqTmr]) := by decide

/-- V5.4: the one sample outside a shortened range. -/
theorem test_V5_4 :
    after (facing { base with actlen := 10, capIdx := 80, acqReq := true } [.acqTick 81])
      (fun t => (capSlot t 80, t.capIdx)) = some (81, 1) := by decide

theorem test_V6 :
    acqPeriodAt 10000000 1 = 199999 ∧ acqPeriodAt 10000000 3 = 66665 ∧ acqPeriodAt 60000000 7 = 171427 ∧
      acqPeriodAt 5000 99 = 0 ∧ acqPeriodAt 5000 100 = 0 ∧ acqPeriodAt 4294967295 1 = 85899344 := by decide

/-- V7.1, its third edge, and V7.2. -/
theorem test_V7_1 :
    (let t := clockEdge { base with acqPrd := 2, acqCnt := 0 }
     (t.acqCnt, t.acqReq)) = (2, true) := by decide
theorem test_V7_2 :
    (let t := clockEdge { base with acqPrd := 0, acqCnt := 0, acqReq := true }
     (t.acqCnt, t.acqReq, t.playCnt, t.playReq)) = (0, true, 8, false) := by decide

/-- R121's guard: a raise before start-up does nothing. -/
theorem test_raise_needs_start_up :
    performUntimed .raiseAcq { base with initDone := false } = .next { base with initDone := false } ∧
      performUntimed .raisePlay base = .next { base with playReq := true } := ⟨rfl, rfl⟩

/-! ## Gain and output (95 V8) -/

theorem test_V8_identity :
    outConv (gainMul 12345 0x3F800000) = some 12345 ∧ outConv (gainMul 0x8000 0x3F800000) = some 0x8000 := by decide
theorem test_V8_truncation :
    outConv (gainMul 3 0x3F000000) = some 1 ∧ outConv (gainMul (toBits16 (-3)) 0x3F000000) = some (toBits16 (-1)) ∧
      outConv (gainMul (toBits16 (-1)) 0x3F000000) = some 0 := by decide
theorem test_V8_saturation :
    outConv (gainMul 32767 0x40000000) = some 32767 ∧ outConv (gainMul 0x8000 0xBF800000) = some 32767 ∧
      outConv (gainMul (toBits16 (-30000)) 0x3F8CCCCD) = some 0x8000 := by decide
/-- V8.19, V8.20, V8.21. -/
theorem test_V8_edges :
    outConv (gainMul 32767 0x3F800054) = some 32767 ∧ outConv (gainMul 0x8000 0x3F8000FC) = some 0x8000 ∧
      outConv (gainMul 100 0x3DCCCCCD) = some 10 := by decide
/-- V8.23: the one rounding of the product is visible. -/
theorem test_V8_23 : outConv (gainMul 100 0x3C23D70A) = some 1 := by decide
/-- V8.24 to V8.27. -/
theorem test_V8_specials :
    outConv (gainMul 5 0x7F800000) = some 32767 ∧ outConv (gainMul (toBits16 (-5)) 0x7F800000) = some 0x8000 ∧
      gainMul 0 0x7F800000 = .nan ∧ gainMul 5 0x7FC00000 = .nan := by decide

/-- V8.28. -/
theorem test_V8_28 :
    after (facing { base with playIdx := 199, play := [(199, 1000)], gain := 0x3F000000, playReq := true } [.playTick])
      (fun t => (t.dac, t.playIdx, t.playReq, t.acks)) = some ([500], 0, false, [.playTmr]) := by decide

/-! ## Witnesses: the hypotheses of each obligation met together -/

/-- The ends of every range of ids (R95). -/
theorem witness_DecodeOfEncodeIsIdentity :
    ([.none 0, .receiveRate 1, .sendRate 2, .receiveWaveform 3, .sendWaveform 0xFFFF, .invalid05 0, .invalid06to07 6 1,
      .invalid06to07 7 1, .invalid08to0F 8 1, .invalid08to0F 15 1, .invalid10to1F 16 1, .invalid10to1F 31 1,
      .invalid20to3F 32 1, .invalid20to3F 63 1, .invalid40to7F 64 1, .invalid40to7F 127 1, .invalid80toFF 128 1,
      .invalid80toFF 255 1] : List Instr).all Instr.wf = true := by decide

/-- A block with the header `01 02 00` and a payload byte in front of it. -/
def parsing : State := facing { base with rxfifo := [0x01, 0x02, 0x00, 0x0A] } [.rxHeader]

theorem witness_StepRunsDecodedHeader :
    nextEvent parsing = .rxHeader ∧ parsing.initDone = true ∧ parsing.dispCmd = .none ∧
      decode parsing.rxfifo = .ok (.receiveRate 2, [0x0A]) := by decide

theorem witness_HeaderParsePublishesRecord :
    nextEvent parsing = .rxHeader ∧ parsing.initDone = true ∧ parsing.dispCmd = .none ∧
      parsing.rxfifo = 0x01 :: 0x02 :: 0x00 :: [0x0A] := by decide

/-- The ids 0, 4, 5 and 255. -/
theorem witness_StoredCommandIsDecodedId :
    ([0, 4, 5, 255] : List Byte).all (fun b0 =>
      let s := facing { base with rxfifo := [b0, 0x34, 0x12] } [.rxHeader]
      nextEvent s == .rxHeader && s.initDone && s.dispCmd == .none && s.rxfifo == b0 :: 0x34 :: 0x12 :: []) = true := by
  decide

/-- The largest length, with an invalid id. -/
theorem witness_LengthFieldStoredForEveryId :
    let s := facing { base with rxfifo := [0xFF, 0xFF, 0xFF] } [.rxHeader]
    nextEvent s = .rxHeader ∧ s.initDone = true ∧ s.dispCmd = .none ∧ s.rxfifo = 0xFF :: 0xFF :: 0xFF :: [] := by decide

/-- A block with the command `c` claimed and two bytes present. -/
def executing (c : Cmd) (e : Event) : State :=
  facing { base with dispCmd := c, pendCmd := c, rxfifo := [0x0A, 0x00] } [e]

/-- The four clauses. -/
theorem witness_StepRunsClaimedCommand :
    (nextEvent (executing .receiveRate .execRecvRate) = .execRecvRate ∧
      2 ≤ (executing .receiveRate .execRecvRate).rxfifo.length) ∧
    nextEvent (executing .sendRate .execSendRate) = .execSendRate ∧
    nextEvent (executing .receiveWaveform .execRecvWave) = .execRecvWave ∧
    nextEvent (executing .sendWaveform .execSendWave) = .execSendWave ∧
    (executing .sendWaveform .execSendWave).initDone = true ∧
    (executing .sendWaveform .execSendWave).dispCmd = .sendWaveform := by decide

/-- Two bytes only; a busy dispatcher; no start-up. -/
theorem witness_ReceiverEnabledExactly :
    (let s := facing { base with rxfifo := [0x01, 0x02] } [.rxHeader]
     nextEvent s = .rxHeader ∧ ¬ (s.initDone = true ∧ 3 ≤ s.rxfifo.length ∧ s.dispCmd = .none)) ∧
    (let s := facing { parsing with dispCmd := .sendRate } [.rxHeader]
     nextEvent s = .rxHeader ∧ ¬ (s.initDone = true ∧ 3 ≤ s.rxfifo.length ∧ s.dispCmd = .none)) ∧
    let s := facing { parsing with initDone := false } [.rxHeader]
    nextEvent s = .rxHeader ∧ ¬ (s.initDone = true ∧ 3 ≤ s.rxfifo.length ∧ s.dispCmd = .none) := by decide

/-- V2.1: `02 00 00 04 00 00`. -/
theorem witness_UnclaimedHeaderIsOverwritten :
    let s := facing { base with rxfifo := [0x02, 0, 0, 0x04, 0, 0] } [.rxHeader, .rxHeader, .claim]
    s.initDone = true ∧ s.dispCmd = .none ∧ s.rxfifo = [0x02, 0, 0, 0x04, 0, 0] ++ [] ∧
      s.script = [.rxHeader, .rxHeader, .claim] ++ [] := by decide

theorem witness_FramingMachineRefinesParse :
    let f : Framing := { fr := .wait, frCmd := 0, frLo := 0, block := parsing }
    f.fr = .wait ∧ f.block.initDone = true ∧ f.block.dispCmd = .none ∧
      decode f.block.rxfifo = .ok (.receiveRate 2, [0x0A]) := by decide

theorem witness_EveryInstructionPublishes :
    (Instr.invalid80toFF 0xFF 1).wf = true ∧ base.initDone = true ∧ base.dispCmd = .none := by decide

/-- Ids 0, 5 and 255; and the claim after the parse is reached. -/
theorem witness_IgnoredCommandsStartNothing :
    (Instr.none 3).idByte = 0 ∧ 5 ≤ (Instr.invalid05 3).idByte.toNat ∧
    (Instr.invalid80toFF 0xFF 3).wf = true ∧ 5 ≤ (Instr.invalid80toFF 0xFF 3).idByte.toNat ∧
    base.initDone = true ∧ base.dispCmd = .none ∧
    execAfter (.invalid80toFF 0xFF 3) (facing base [.claim]) nextEvent = some .claim := by decide

theorem witness_OtherClaimedCommandHolds :
    (Instr.receiveRate 2).wf = true ∧ (executing .sendRate .claim).dispCmd ≠ .none ∧
      (executing .sendRate .claim).dispCmd ≠ decodeCmd (Instr.receiveRate 2).idByte := by decide

theorem witness_IgnoredCommandsFrame :
    ((Instr.none 7).idByte = 0 ∧ ∃ t, exec (.none 7) base = .next t ∧ t.rxstat = true) ∧
    (Instr.invalid06to07 6 7).wf = true ∧ 5 ≤ (Instr.invalid06to07 6 7).idByte.toNat ∧
      ∃ t, exec (.invalid06to07 6 7) base = .next t ∧ t.pendLen = 7 :=
  ⟨⟨rfl, _, rfl, rfl⟩, by decide, by decide, _, rfl, rfl⟩

/-- Something pending, and nothing pending. -/
theorem witness_ClaimTakesPendingCommand :
    (let s := facing { base with pendCmd := .sendRate } [.claim]
     nextEvent s = .claim ∧ s.initDone = true ∧ s.dispCmd = .none ∧ s.pendCmd ≠ .none) ∧
    let s := facing base [.claim]
    nextEvent s = .claim ∧ s.initDone = true ∧ s.dispCmd = .none ∧ s.pendCmd = .none := by decide

/-- The rate integers 0, 1, 100 and 101; the wait's premise is in `witness_ReceiveCommandsWaitForPayload`. -/
def rating (p0 : Byte) : State := { base with dispCmd := .receiveRate, rxfifo := [p0, 0x00] }

theorem witness_ReceiveRateSetsLengthAndPeriod :
    ([0, 1, 100, 101] : List Byte).all (fun p0 =>
      (rating p0).initDone && (rating p0).dispCmd == .receiveRate && (rating p0).rxfifo == p0 :: 0x00 :: []) = true := by
  decide

theorem witness_SendRateAnswersActiveLength :
    (executing .sendRate .execSendRate).initDone = true ∧
      (executing .sendRate .execSendRate).dispCmd = .sendRate := by decide

theorem witness_RateCommandsFrame :
    (∃ t, exec (.receiveRate 2) (rating 100) = .next t ∧ t.actlen = 100) ∧
      ∃ t, exec (.sendRate 0) (executing .sendRate .claim) = .next t ∧ t.tx = [0x64, 0x00] :=
  ⟨⟨_, rfl, rfl⟩, _, rfl, rfl⟩

/-- The rate integers 1 and 100. -/
theorem witness_RateReadsBackAsSet :
    ([1, 100] : List Byte).all (fun p0 =>
      let s := facing (rating p0)
        [.execRecvRate, .hostPush 2, .hostPush 0, .hostPush 0, .rxHeader, .claim, .execSendRate]
      s.initDone && s.dispCmd == .receiveRate && s.rxfifo == [p0, 0x00] &&
        decide (1 ≤ p0.toNat + 256 * (0x00 : Byte).toNat ∧ p0.toNat + 256 * (0x00 : Byte).toNat ≤ 100) &&
        s.script == [.execRecvRate, .hostPush 2, .hostPush 0, .hostPush 0, .rxHeader, .claim, .execSendRate] ++ []) =
      true := by decide

theorem witness_QuiescentBlockWaitsForHost :
    let s := facing { base with rxfifo := [0x01, 0x02] } [.rxHeader]
    s.Quiescent ∧ nextEvent s ∈ [.rxHeader, .claim, .execRecvRate, .execSendRate, .execRecvWave, .execSendWave] :=
  ⟨⟨rfl, rfl, by decide⟩, by decide⟩

theorem witness_ReceiveCommandsWaitForPayload :
    (let s := facing { base with dispCmd := .receiveRate, rxfifo := [0x04] } [.execRecvRate]
     s.dispCmd = .receiveRate ∧ s.rxfifo.length < 2 ∧
       nextEvent s ∈ [.rxHeader, .claim, .execRecvRate, .execSendRate, .execRecvWave, .execSendWave]) ∧
    let s := facing { base with dispCmd := .receiveWaveform } [.execRecvWave]
    s.dispCmd = .receiveWaveform ∧ s.rxfifo.length < 2 ∧
      nextEvent s ∈ [.rxHeader, .claim, .execRecvRate, .execSendRate, .execRecvWave, .execSendWave] := by decide

/-- An upload and a download at a slot. -/
def uploading (k : XferIndex) : State :=
  { base with dispCmd := .receiveWaveform, xferIdx := k, rxfifo := [0xFE, 0xFF] }
def downloading (k : XferIndex) : State := { base with dispCmd := .sendWaveform, xferIdx := k }

/-- Slots 0, 198 and 199; the wait's premise is in `witness_ReceiveCommandsWaitForPayload`. -/
theorem witness_ReceiveWaveformStoresSample :
    ([0, 198, 199] : List XferIndex).all (fun k =>
      (uploading k).initDone && (uploading k).dispCmd == .receiveWaveform &&
        (uploading k).rxfifo == 0xFE :: 0xFF :: [] && decide ((uploading k).xferIdx.toNat < 200)) = true := by decide

/-- Slots 0, 98 and 99. -/
theorem witness_SendWaveformEmitsSample :
    ([0, 98, 99] : List XferIndex).all (fun k =>
      (downloading k).initDone && (downloading k).dispCmd == .sendWaveform &&
        decide ((downloading k).xferIdx.toNat < 100)) = true := by decide

theorem witness_WaveformCommandsFrame :
    (∃ t, exec (.receiveWaveform 0) (uploading 5) = .next t ∧ t.xferIdx = 6) ∧
      ∃ t, exec (.sendWaveform 0) (downloading 5) = .next t ∧ t.xferIdx = 6 :=
  ⟨⟨_, rfl, rfl⟩, _, rfl, rfl⟩

theorem witness_UploadFillsPlaybackBuffer :
    let s := facing base (uploadSchedule 400 (List.replicate 200 7))
    s.initDone = true ∧ s.dispCmd = .none ∧ s.rxfifo = [] ∧ (List.replicate 200 (7 : Sample)).length = 200 ∧
      s.script = uploadSchedule 400 (List.replicate 200 7) ++ [] :=
  ⟨rfl, rfl, rfl, List.length_replicate, (List.append_nil _).symm⟩

theorem witness_DownloadSendsWholeCaptureBuffer :
    let s := facing { base with pendCmd := .sendWaveform } (.claim :: List.replicate 100 .execSendWave)
    s.initDone = true ∧ s.dispCmd = .none ∧ s.pendCmd = .sendWaveform ∧
      s.script = .claim :: List.replicate 100 .execSendWave ++ [] :=
  ⟨rfl, rfl, rfl, (List.append_nil _).symm⟩

/-- A claim, each command's last step, and a reset, for the statements about any step that answers a next state. -/
theorem witness_DispatcherTransitions :
    after (facing { base with pendCmd := .sendRate } [.claim]) State.dispCmd = some .sendRate ∧
    after (executing .receiveRate .execRecvRate) State.dispCmd = some .none ∧
    after (executing .sendRate .execSendRate) State.dispCmd = some .none ∧
    after (facing (uploading 199) [.execRecvWave]) State.dispCmd = some .none ∧
    after (facing (downloading 99) [.execSendWave]) State.dispCmd = some .none ∧
    after (facing (uploading 5) [.reset]) State.dispCmd = some .none ∧
    after (facing (uploading 5) [.clockEdge]) State.dispCmd = some .receiveWaveform := by decide

/-- A paced and weakly fair run: a pending `SEND_RATE` is claimed and executed, and the dispatcher then polls for ever. -/
def sendRateSchedule (n : Nat) : Event := if n = 1 then .execSendRate else .claim

def sendRateRun : Nat → State
  | 0 => { base with pendCmd := .sendRate }
  | 1 => { base with pendCmd := .sendRate, dispCmd := .sendRate }
  | _ => { base with tx := [0x64, 0x00], acks := [.rxStatus] }

theorem sendRateRun_isRun : IsRun sendRateSchedule sendRateRun
  | 0 => rfl
  | 1 => rfl
  | _ + 2 => rfl

theorem sendRateRun_weaklyFair : WeaklyFair sendRateSchedule sendRateRun := by
  intro f n h
  cases f with
  | claim => exact ⟨n + 2, by omega, rfl⟩
  | acqTick =>
    obtain ⟨_, ⟨x, rfl⟩, hen⟩ := h (n + 2) (by omega)
    exact absurd hen (by simp [Event.enabled, sendRateRun, base])
  | _ =>
    obtain ⟨_, rfl, hen⟩ := h (n + 2) (by omega)
    exact absurd hen (by simp [Event.enabled, sendRateRun, base, rxTrigger])

theorem sendRateRun_paced : Paced sendRateSchedule sendRateRun := by
  intro n h
  unfold sendRateSchedule at h
  split at h <;> simp at h

theorem witness_ReleasedCommandNotClaimedAgain :
    (∃ t, exec (.sendRate 0) (executing .sendRate .claim) = .next t ∧ (executing .sendRate .claim).dispCmd ≠ .none ∧
      t.dispCmd = .none) ∧
    (nextEvent (executing .sendRate .claim) = .claim ∧ (executing .sendRate .claim).dispCmd ≠ .none) ∧
    IsRun sendRateSchedule sendRateRun ∧ WeaklyFair sendRateSchedule sendRateRun ∧
    Paced sendRateSchedule sendRateRun ∧ (∀ k, sendRateSchedule k ≠ .reset) ∧
    (sendRateRun 0).initDone = true ∧ (sendRateRun 0).dispCmd = .none ∧ (sendRateRun 0).pendCmd ≠ .none := by
  refine ⟨⟨_, rfl, by decide, rfl⟩, ⟨rfl, by decide⟩, sendRateRun_isRun, sendRateRun_weaklyFair, sendRateRun_paced,
    fun k => ?_, rfl, rfl, by decide⟩
  unfold sendRateSchedule
  split <;> simp

theorem witness_OnlyTheTwoAnswersAreTransmitted :
    after (executing .sendRate .execSendRate) State.tx = some [0x64, 0x00] ∧
    nextEvent (executing .sendRate .execSendRate) ≠ .reset ∧
    after (facing (downloading 5) [.execSendWave]) (fun t => t.tx.length) = some 2 := by decide

/-- Set by a parse, cleared by a release. -/
theorem witness_ReceiveStatusSetByParseClearedByRelease :
    nextEvent parsing ≠ .reset ∧ after parsing State.rxstat = some true ∧ parsing.rxstat = false ∧
    (let s := { executing .sendRate .execSendRate with rxstat := true }
     nextEvent s ≠ .reset ∧ after s State.rxstat = some false) := by decide

/-- A block whose FIFO is full, whatever its depth is. -/
def full : State := facing { base with rxfifo := List.replicate Config.rxFifoDepth 0 } [.hostPush 7]

/-- A byte with room for it, and a byte without. -/
theorem witness_PushedByteIsQueuedOrOverruns :
    (nextEvent (facing base [.hostPush 7]) = .hostPush 7 ∧ (facing base [.hostPush 7]).initDone = true ∧
      (facing base [.hostPush 7]).rxfifo.length < Config.rxFifoDepth) ∧
    nextEvent full = .hostPush 7 ∧ full.initDone = true ∧ ¬ full.rxfifo.length < Config.rxFifoDepth := by
  refine ⟨⟨rfl, rfl, Nat.succ_pos _⟩, rfl, rfl, ?_⟩
  simp [full, facing]

theorem witness_OverrunMarkIsSticky :
    (∃ t, step full = .next t ∧ nextEvent full ≠ .reset ∧ Config.rxFifoDepth ≤ full.rxfifo.length) ∧
      ∃ t, step (facing { base with rxOverrun := true } [.reset]) = .next t :=
  ⟨⟨_, rfl, by decide, by simp [full, facing]⟩, _, rfl⟩

theorem witness_IndexAdvanceWraps : (1 : Nat) ≤ 100 ∧ 0 + 1 < 100 ∧ 98 + 1 < 100 ∧ 99 + 1 = 100 := by decide

/-- A block with an acquisition tick to serve. -/
def sampling (c : CapIndex) (n : Rate) : State :=
  facing { base with capIdx := c, actlen := n, acqReq := true } [.acqTick 77]

/-- The cursor at 0, 3 and 99 of lengths 1, 4 and 100. -/
theorem witness_AcqTickStoresThenAdvances :
    ([(0, 1), (3, 4), (99, 100)] : List (CapIndex × Rate)).all (fun p =>
      let s := sampling p.1 p.2
      nextEvent s == .acqTick 77 && s.initDone && s.acqReq && decide (1 ≤ s.actlen.toNat) &&
        decide (s.actlen.toNat ≤ 100) && decide (s.capIdx.toNat < 100)) = true := by decide

theorem witness_AcquisitionKeepsLastSamples :
    (sampling 3 4).initDone = true ∧ (sampling 3 4).actlen.toNat = 4 ∧ (sampling 3 4).capIdx.toNat = 3 ∧ 4 ≤ 100 ∧ 3 < 4 ∧
      4 ≤ ([1, 2, 3, 4, 5] : List Sample).length := by decide

/-- `CAPIDX = 80`, then length 10 (R105); and the cursor on the new length itself. -/
theorem witness_ShorteningStrandsOneSample :
    ([80, 10] : List CapIndex).all (fun c =>
      let s := facing { base with dispCmd := .receiveRate, rxfifo := [0x0A, 0x00], capIdx := c, acqReq := true }
        [.execRecvRate, .acqTick 81]
      s.initDone && s.dispCmd == .receiveRate && s.rxfifo == 0x0A :: 0x00 :: [] &&
        decide (10 = (0x0A : Byte).toNat + 256 * (0x00 : Byte).toNat) && decide (10 ≤ s.capIdx.toNat) &&
        decide (s.capIdx.toNat < 100) && s.acqReq && s.script == [.execRecvRate, .acqTick 81] ++ []) = true := by decide

/-- A block with a playback tick to serve. -/
def playing (k : PlayIndex) (g : Word) : State :=
  facing { base with playIdx := k, gain := g, playReq := true, play := [(0, 5), (199, 1000)] } [.playTick]

/-- A product with a word, and a NaN product (V8.27). -/
theorem witness_PlayTickEmitsScaledSample :
    (let s := playing 199 0x3F000000
     nextEvent s = .playTick ∧ s.initDone = true ∧ s.playReq = true ∧ s.playIdx.toNat < 200 ∧
       outConv (gainMul (playSlot s s.playIdx.toNat) s.gain) = some 500) ∧
    let s := playing 0 0x7FC00000
    nextEvent s = .playTick ∧ s.initDone = true ∧ s.playReq = true ∧ s.playIdx.toNat < 200 ∧
      outConv (gainMul (playSlot s s.playIdx.toNat) s.gain) = none := by decide

theorem witness_PlaybackReproducesBuffer :
    (playing 199 0x3F000000).initDone = true ∧ (playing 199 0x3F000000).playIdx.toNat < 200 ∧
      outConv (gainMul (playSlot (playing 199 0x3F000000) ((199 + 1) % 200)) 0x3F000000) = some 2 := by decide

/-- V8.23; the largest finite gain, whose product is too large; an infinite gain and a NaN (V8.26, V8.27). -/
theorem witness_GainProductRoundedToNearestEven :
    binary32OfBits 0x3C23D70A = .finite false 10737418 (-30) ∧
    ¬ (2 ^ 25 - 1) * 2 ^ (103 - (-30 : Int)).toNat ≤ (toSigned16 100).natAbs * 10737418 * 2 ^ (-30 - 103 : Int).toNat ∧
    binary32OfBits 0x7F7FFFFF = .finite false 16777215 104 ∧
    (2 ^ 25 - 1) * 2 ^ (103 - (104 : Int)).toNat ≤ (toSigned16 2).natAbs * 16777215 * 2 ^ (104 - 103 : Int).toNat ∧
    binary32OfBits 0x7F800000 = .inf false ∧ binary32OfBits 0x7FC00000 = .nan := by decide

/-- The largest finite gain: twice it is too large, once it is itself. -/
theorem test_gain_overflow :
    gainMul 2 0x7F7FFFFF = .inf false ∧ gainMul (toBits16 (-1)) 0x7F7FFFFF = .finite true 16777215 104 := by decide

/-- A number in range, and one beyond it. -/
theorem witness_OutputSaturatesAndTruncates :
    binary32Value (.finite true 3 (-1)) = some (-3 / 2) ∧ binary32Value (.finite false 1 15) = some 32768 := by
  constructor <;> norm_num [binary32Value]

theorem witness_EngineTicksCommute :
    ∃ a b ab ba, acqTick 77 (playing 199 0x3F000000) = .next a ∧ playTick a = .next ab ∧
      playTick (playing 199 0x3F000000) = .next b ∧ acqTick 77 b = .next ba :=
  ⟨_, _, _, _, rfl, rfl, rfl, rfl⟩

theorem witness_PeriodFormulaFitsRegister : (1 : Nat) ≤ 1 ∧ 1 ≤ 100 ∧ (1 : Nat) ≤ 100 ∧ 100 ≤ 100 := by decide

/-- One timer at zero and one not; and the guard. -/
theorem witness_ClockEdgeCountsAndReloads :
    nextEvent (facing { base with acqCnt := 0 } [.clockEdge]) = .clockEdge ∧
      (facing { base with acqCnt := 0 } [.clockEdge]).initDone = true := by decide

theorem witness_TimerExpiresEveryPeriodPlusOneEdges : 3 ≤ base.playCnt.toNat ∧ 3 ≤ base.acqCnt.toNat := by decide

/-- Either timer. -/
theorem witness_PendingTickAbsorbsTheNext :
    (let s := facing { base with acqReq := true, acqCnt := 0 } [.clockEdge, .acqTick 5, .acqTick 5]
     s.initDone = true ∧ s.acqReq = true ∧ s.acqCnt = 0 ∧ 1 ≤ s.actlen.toNat ∧ s.actlen.toNat ≤ 100 ∧
       s.capIdx.toNat < 100 ∧ s.script = [.clockEdge, .acqTick 5, .acqTick 5] ++ []) ∧
    let s := facing { base with playReq := true, playCnt := 0 } [.clockEdge, .playTick, .playTick]
    s.initDone = true ∧ s.playReq = true ∧ s.playCnt = 0 ∧ s.playIdx.toNat < 200 ∧
      s.script = [.clockEdge, .playTick, .playTick] ++ [] := by decide

/-- A run of the model without time whose timers keep running: the two raises in turn. -/
def raises (n : Nat) : UntimedEvent := if n % 2 = 0 then .raiseAcq else .raisePlay

def raised : State := { base with acqReq := true, playReq := true }

theorem raises_isUntimedRun : IsUntimedRun raises (fun _ => raised) := by
  intro n
  unfold raises
  split <;> rfl

theorem raises_timersKeepRunning : TimersKeepRunning raises (fun _ => raised) := by
  simp only [TimersKeepRunning, List.forall_mem_cons, List.not_mem_nil, false_implies, implies_true, and_true]
  exact ⟨fun n _ => ⟨2 * n, by omega, by simp [raises]⟩, fun n _ => ⟨2 * n + 1, by omega, by simp [raises]⟩⟩

/-- A clock edge of the machine, and a state of the model without time that differs in the counters only. -/
theorem witness_UntimedModelCoversClockEdge :
    (facing base [.clockEdge]).initDone = true ∧ (∃ t, step (facing base [.clockEdge]) = .next t) ∧
      ({ base with acqCnt := 7 } : State).untimed = (facing base [.clockEdge]).untimed ∧
      IsUntimedRun raises (fun _ => raised) ∧ TimersKeepRunning raises (fun _ => raised) ∧ raised.initDone = true :=
  ⟨rfl, ⟨_, rfl⟩, rfl, raises_isUntimedRun, raises_timersKeepRunning, rfl⟩

theorem witness_LengthAndPeriodChangeTogether :
    ∃ t, step (executing .receiveRate .execRecvRate) = .next t ∧
      nextEvent (executing .receiveRate .execRecvRate) ≠ .reset ∧ t.actlen ≠ base.actlen :=
  ⟨_, rfl, by decide, by decide⟩

/-- A clock edge and a byte, before start-up. -/
theorem witness_NothingRunsBeforeStartUp :
    let s := facing { base with initDone := false } [.clockEdge]
    let u := facing { base with initDone := false } [.hostPush 7]
    s.initDone = false ∧ nextEvent s ≠ .reset ∧ nextEvent s ≠ .initDone ∧ nextEvent s = .clockEdge ∧
      nextEvent u ≠ .reset ∧ nextEvent u ≠ .initDone ∧ nextEvent u = .hostPush 7 := by decide

theorem witness_UnrequestedUnclaimedAndRepeatedEventsChangeNothing :
    (nextEvent (facing base [.acqTick 5]) = .acqTick 5 ∧ (facing base [.acqTick 5]).acqReq = false) ∧
    (nextEvent (facing base [.playTick]) = .playTick ∧ (facing base [.playTick]).playReq = false) ∧
    nextEvent (facing base [.execRecvRate]) = .execRecvRate ∧ nextEvent (facing base [.execSendRate]) = .execSendRate ∧
    nextEvent (facing base [.execRecvWave]) = .execRecvWave ∧ nextEvent (facing base [.execSendWave]) = .execSendWave ∧
    nextEvent (facing base [.initDone]) = .initDone ∧ base.initDone = true ∧ base.dispCmd = .none := by decide

theorem witness_StartUpAndGainEvents :
    let s := facing { base with initDone := false } [.initDone]
    nextEvent s = .initDone ∧ s.initDone = false ∧ nextEvent (facing base [.gainDrive 1]) = .gainDrive 1 := by decide

theorem witness_ResetSetsEveryRegister :
    nextEvent (facing (uploading 5) [.reset]) = .reset ∧ ∃ t, step (facing (uploading 5) [.reset]) = .next t :=
  ⟨rfl, _, rfl⟩

/-- A state with the invariants that a run reaches: start-up complete, a clock edge next. -/
def started (e : Event) : State := facing { State.reset with initDone := true } [e]

theorem started_inv (e : Event) : (started e).Inv where
  actlenLegal := (by decide : 1 ≤ (100 : Rate).toNat ∧ (100 : Rate).toNat ≤ 100)
  capIdxLegal := (by decide : (0 : CapIndex).toNat < 100)
  playIdxLegal := (by decide : (0 : PlayIndex).toNat < 200)
  periodMatches := rfl
  xferUpload := nofun
  xferDownload := nofun
  xferIdle _ _ := rfl
  claimedIsPending := fun h => absurd rfl h
  fifoWithinDepth := Nat.zero_le _
  playPeriodFixed := rfl
  capForm := rfl
  playForm := rfl

theorem witness_EveryStepKeepsInvariant : (started .clockEdge).Inv ∧ ∃ t, step (started .clockEdge) = .next t :=
  ⟨started_inv _, _, rfl⟩

/-- And a state with the invariants in which a byte comes before start-up. -/
theorem witness_NoStepFaultsUnderInvariant :
    (started .playTick).Inv ∧ ({ started (.hostPush 7) with initDone := false } : State).Inv :=
  ⟨started_inv _, { started_inv (.hostPush 7) with }⟩

/-- Each clause at the first index or length out of range. -/
theorem witness_IllegalIndexOrLengthStops :
    ((uploading 200).initDone = true ∧ (uploading 200).dispCmd = .receiveWaveform ∧ 2 ≤ (uploading 200).rxfifo.length ∧
      200 ≤ (uploading 200).xferIdx.toNat) ∧
    ((downloading 100).initDone = true ∧ (downloading 100).dispCmd = .sendWaveform ∧
      100 ≤ (downloading 100).xferIdx.toNat) ∧
    (nextEvent (sampling 0 0) = .acqTick 77 ∧ (sampling 0 0).acqReq = true ∧ (sampling 0 101).actlen.toNat = 101) ∧
    (1 ≤ (sampling 100 100).actlen.toNat ∧ (sampling 100 100).actlen.toNat ≤ 100 ∧
      100 ≤ (sampling 100 100).capIdx.toNat) ∧
    nextEvent (playing 200 0) = .playTick ∧ (playing 200 0).playReq = true ∧ 200 ≤ (playing 200 0).playIdx.toNat := by
  decide

/-- One step of each kind of owner. -/
theorem witness_OnlyOwnersWriteSharedState :
    nextEvent parsing ≠ .reset ∧ after parsing State.pendLen = some 2 ∧
    after (sampling 3 4) State.capIdx = some 0 ∧ after (playing 199 0) State.playIdx = some 0 ∧
    after (facing (uploading 5) [.execRecvWave]) State.xferIdx = some 6 ∧
    after (facing base [.gainDrive 1]) State.gain = some 1 := by decide

end Sys2Proof.Tests
end

/-!
# Proofs: how a step runs the block's instructions, and when it waits (spec 00_scope.md R5, R11, R12)

What a step is by the guard of its event: where the guard holds and the event comes to an instruction, `exec` of that
instruction; where it does not hold, only the turn passes (but for a byte before start-up).
-/

namespace Sys2Proof.Machine

/-! ## The guards of the command side -/

theorem rxHeader_enabled_iff (s : State) :
    Event.rxHeader.enabled s = true ↔ s.initDone = true ∧ 3 ≤ s.rxfifo.length ∧ s.dispCmd = .none := by
  simp [Event.enabled, rxTrigger, rxHold, and_assoc]

theorem execRecvRate_enabled_iff (s : State) :
    Event.execRecvRate.enabled s = true ↔
      s.initDone = true ∧ s.dispCmd = .receiveRate ∧ 2 ≤ s.rxfifo.length := by
  simp [Event.enabled, payloadReady, and_assoc]

theorem execSendRate_enabled_iff (s : State) :
    Event.execSendRate.enabled s = true ↔ s.initDone = true ∧ s.dispCmd = .sendRate := by
  simp [Event.enabled]

theorem execRecvWave_enabled_iff (s : State) :
    Event.execRecvWave.enabled s = true ↔
      s.initDone = true ∧ s.dispCmd = .receiveWaveform ∧ 2 ≤ s.rxfifo.length := by
  simp [Event.enabled, payloadReady, and_assoc]

theorem execSendWave_enabled_iff (s : State) :
    Event.execSendWave.enabled s = true ↔ s.initDone = true ∧ s.dispCmd = .sendWaveform := by
  simp [Event.enabled]

/-- In a quiescent state the claim is the one step of the command side whose guard can hold. -/
theorem not_enabled_of_quiescent {s : State} (quiescent : s.Quiescent) {e : Event}
    (commandSide : e ∈ [.rxHeader, .execRecvRate, .execSendRate, .execRecvWave, .execSendWave]) :
    e.enabled s = false := by
  obtain ⟨polling, -, short⟩ := quiescent
  simp only [List.mem_cons, List.not_mem_nil, or_false] at commandSide
  rw [Bool.eq_false_iff]
  rcases commandSide with rfl | rfl | rfl | rfl | rfl
  · rw [ne_eq, rxHeader_enabled_iff]
    exact fun ⟨_, long, _⟩ => Nat.not_le_of_lt short long
  · simp [execRecvRate_enabled_iff, polling]
  · simp [execSendRate_enabled_iff, polling]
  · simp [execRecvWave_enabled_iff, polling]
  · simp [execSendWave_enabled_iff, polling]

/-! ## The step by its event's guard -/

/-- A step whose event is enabled and comes to an instruction runs that instruction. -/
theorem step_eq_exec {s t : State} {e : Event} {i : Instr} (event : nextEvent s = e) (enabled : e.enabled s = true)
    (run : takeEvent e s.advance = .run i t) : step s = exec i t := by
  subst event
  rw [step_enabled enabled, run]

/-- A disabled event other than a byte of the host leaves the block as it is (log 2). -/
theorem step_eq_advance_of_not_enabled {s : State} (disabled : (nextEvent s).enabled s = false)
    (noPush : ∀ b, nextEvent s ≠ .hostPush b) : step s = .next s.advance := by
  rw [step_notEnabled disabled]
  split
  · next b push => exact absurd push (noPush b)
  · rfl

/-- A claim with nothing pending changes nothing, whether its guard holds or not (41_dispatch_commands.md R86). -/
theorem step_claim_of_nothing_pending {s : State} (event : nextEvent s = .claim) (pending : s.pendCmd = .none) :
    step s = .next s.advance := by
  cases enabled : (nextEvent s).enabled s with
  | false => exact step_eq_advance_of_not_enabled enabled (by simp [event])
  | true =>
    rw [step_enabled enabled, event]
    exact congrArg Host.Outcome.next (if_pos pending)

/-! ## The fetch -/

/-- Bytes that decode are at least a header. -/
theorem three_le_length_of_decode {bs rest : List Byte} {i : Instr} (h : decode bs = .ok (i, rest)) :
    3 ≤ bs.length := by
  by_contra short
  rw [decode_short (Nat.lt_of_not_le short)] at h
  cases h

theorem fetchHeader_of_decode {s : State} {rest : List Byte} {i : Instr} (h : decode s.rxfifo = .ok (i, rest)) :
    fetchHeader s = some (i, withRx rest s) := by
  rw [fetchHeader, h]

/-! ## The obligations -/

/-- Settles O22: but for the claim, every guard fails, and the claim finds nothing pending. -/
theorem quiescentBlockWaitsForHost : Obligations.QuiescentBlockWaitsForHost := by
  unfold Obligations.QuiescentBlockWaitsForHost
  intro s quiescent commandSide
  have ⟨_, pending, _⟩ := quiescent
  change step s = .next s.advance
  by_cases event : nextEvent s = .claim
  · exact step_claim_of_nothing_pending event pending
  · refine step_eq_advance_of_not_enabled (not_enabled_of_quiescent quiescent ?_) fun b push => ?_
    · simpa [event] using commandSide
    · simp [push] at commandSide

/-- Settles O5: bytes that decode are a header's worth, so the guard holds and the fetch gives `i`. -/
theorem stepRunsDecodedHeader : Obligations.StepRunsDecodedHeader := by
  unfold Obligations.StepRunsDecodedHeader
  intro s i rest event init polling decoded
  have enabled : Event.rxHeader.enabled s = true :=
    (rxHeader_enabled_iff s).2 ⟨init, three_le_length_of_decode decoded, polling⟩
  refine step_eq_exec (t := withRx rest s.advance) event enabled ?_
  rw [takeEvent, fetchHeader_of_decode (s := s.advance) decoded]

/-- Settles O6: what `takeEvent` makes of each of the four events is the claimed command, so only the guards are left. -/
theorem stepRunsClaimedCommand : Obligations.StepRunsClaimedCommand := by
  unfold Obligations.StepRunsClaimedCommand
  rintro s _ init rfl
  refine ⟨fun event claimed payload => ?_, fun event claimed => ?_, fun event claimed payload => ?_,
    fun event claimed => ?_⟩
  · exact step_eq_exec event ((execRecvRate_enabled_iff s).2 ⟨init, claimed, payload⟩) rfl
  · exact step_eq_exec event ((execSendRate_enabled_iff s).2 ⟨init, claimed⟩) rfl
  · exact step_eq_exec event ((execRecvWave_enabled_iff s).2 ⟨init, claimed, payload⟩) rfl
  · exact step_eq_exec event ((execSendWave_enabled_iff s).2 ⟨init, claimed⟩) rfl

end Sys2Proof.Machine

/-!
# Proofs: the state after reset, start-up, the status marks and the invariants (spec 10_state.md R13 to R41)

The invariants of R41 are kept operation by operation: one lemma for each operation a step is made of says under which
condition it keeps them, and the inversion of the step puts these together.
-/

namespace Sys2Proof.Machine

/-! ## Start-up, the gain and reset -/

/-- A step whose event is enabled and comes to an answer gives that answer. -/
theorem step_eq_answer {s : State} {e : Event} {o : Answer} (event : nextEvent s = e) (enabled : e.enabled s = true)
    (answer : takeEvent e s.advance = .answer o) : step s = o := by
  subst event
  rw [step_enabled enabled, answer]

/-- Before start-up the guards of `Reset`, `InitDone` and `GainDrive` alone can hold (70_reset_and_hazards.md R144). -/
theorem not_enabled_before_startUp {s : State} (notDone : s.initDone = false) {e : Event} (noReset : e ≠ .reset)
    (noStart : e ≠ .initDone) (noGain : ∀ g, e ≠ .gainDrive g) : e.enabled s = false := by
  cases e with
  | reset => exact absurd rfl noReset
  | initDone => exact absurd rfl noStart
  | gainDrive g => exact absurd rfl (noGain g)
  | _ => simp [Event.enabled, notDone]

/-- Settles O53: both guards hold, and each event comes to one update. -/
theorem startUpAndGainEvents : Obligations.StartUpAndGainEvents := by
  unfold Obligations.StartUpAndGainEvents
  exact fun s => ⟨fun event notDone => step_eq_answer event (by simp [Event.enabled, notDone]) rfl,
    fun g event => step_eq_answer event rfl rfl⟩

/-- Settles O51: no guard holds, and a disabled event refuses a byte and passes otherwise. -/
theorem nothingRunsBeforeStartUp : Obligations.NothingRunsBeforeStartUp := by
  unfold Obligations.NothingRunsBeforeStartUp
  intro s notDone noReset noStart noGain
  have disabled := not_enabled_before_startUp notDone noReset noStart noGain
  by_cases push : ∃ b, nextEvent s = .hostPush b
  · obtain ⟨b, event⟩ := push
    refine .inl ⟨⟨b, event⟩, ?_⟩
    rw [step_notEnabled disabled, event]
  · have noPush : ∀ b, nextEvent s ≠ .hostPush b := not_exists.1 push
    exact .inr ⟨noPush, step_eq_advance_of_not_enabled disabled noPush⟩

/-- Settles O55: the record `State.reset` field by field; an empty memory reads as its free contents. -/
theorem resetStateHasTableValues : Obligations.ResetStateHasTableValues := by
  unfold Obligations.ResetStateHasTableValues
  exact ⟨by and_intros <;> rfl, fun s a => ⟨rfl, rfl, rfl, rfl⟩⟩

/-! ## The receive status and the overrun mark -/

@[simp] theorem advanceXfer_rxOverrun (last : Nat) (s : State) : (advanceXfer last s).rxOverrun = s.rxOverrun := by
  rcases advanceXfer_cases last s with ⟨-, released⟩ | ⟨-, moved⟩
  · rw [released, release_rxOverrun]
  · rw [moved, nextXfer_rxOverrun]

@[simp] theorem hostPush_rxstat (b : Byte) (s : State) : (hostPush b s).rxstat = s.rxstat := by
  rw [hostPush, rxArrive_eq]

/-- An arriving byte sets the mark exactly at a full FIFO (40_header_parse.md R75). -/
theorem rxArrive_rxOverrun_iff (depth : Nat) (b : Byte) (s : State) :
    (rxArrive depth b s).rxOverrun = true ↔ s.rxOverrun = true ∨ depth ≤ s.rxfifo.length := by
  rw [rxArrive_eq]
  by_cases room : s.rxfifo.length < depth
  · simp [room, Nat.not_le_of_lt room]
  · simp [room, Nat.le_of_not_lt room]

/-- A bulk step that changes `RXSTAT` is the last of its command. -/
theorem advanceXfer_eq_release_of_rxstat_ne {last : Nat} {s : State}
    (changed : (advanceXfer last s).rxstat ≠ s.rxstat) : advanceXfer last s = release s := by
  rcases advanceXfer_cases last s with ⟨-, released⟩ | ⟨-, moved⟩
  · exact released
  · rw [moved] at changed
    exact absurd (nextXfer_rxstat s) changed

/-- A clock edge writes the timers' counters and requests only (43_rate_control.md R118). -/
theorem clockEdge_eq (s : State) :
    clockEdge s = { s with
      acqCnt := if s.acqCnt = 0 then s.acqPrd else s.acqCnt - 1
      acqReq := if s.acqCnt = 0 then true else s.acqReq
      playCnt := if s.playCnt = 0 then s.playPrd else s.playCnt - 1
      playReq := if s.playCnt = 0 then true else s.playReq } := by
  rw [clockEdge, playEdge_eq, acqEdge_eq]

@[simp] theorem clockEdge_rxstat (s : State) : (clockEdge s).rxstat = s.rxstat := by rw [clockEdge_eq]

@[simp] theorem clockEdge_rxOverrun (s : State) : (clockEdge s).rxOverrun = s.rxOverrun := by rw [clockEdge_eq]

/-- Only a byte of the host and a reset touch the overrun mark. -/
theorem rxOverrun_unchanged {s t : State} (result : StepResult s t) (noPush : ∀ b, nextEvent s ≠ .hostPush b)
    (noReset : nextEvent s ≠ .reset) : t.rxOverrun = s.rxOverrun := by
  cases result with
  | push b event => exact absurd event (noPush b)
  | wasReset event => exact absurd event noReset
  | sampleStored => exact advanceXfer_rxOverrun _ _
  | sampleSent => exact advanceXfer_rxOverrun _ _
  | edge => exact clockEdge_rxOverrun _
  | _ => rfl

/-- Settles O32, by the inversion of the step: a parse sets the bit, a release clears it, no other step touches it. -/
theorem receiveStatusSetByParseClearedByRelease : Obligations.ReceiveStatusSetByParseClearedByRelease := by
  unfold Obligations.ReceiveStatusSetByParseClearedByRelease
  intro s t stepped noReset changed
  have cleared {u : State} (busy : s.dispCmd ≠ .none) (released : t = release u) :
      t.rxstat = false ∧ s.dispCmd ≠ .none ∧ t.dispCmd = .none := by
    rw [released]
    exact ⟨rfl, busy, rfl⟩
  cases step_result stepped with
  | parse _ _ _ _ event _ polling => exact .inl ⟨rfl, event, polling⟩
  | rateSet _ _ _ _ _ busy => exact .inr (cleared (by simp [busy]) rfl)
  | rateIgnored _ _ _ _ _ busy => exact .inr (cleared (by simp [busy]) rfl)
  | rateSent _ _ busy => exact .inr (cleared (by simp [busy]) rfl)
  | sampleStored _ _ _ _ _ busy =>
    exact .inr (cleared (by simp [busy]) (advanceXfer_eq_release_of_rxstat_ne changed))
  | sampleSent _ _ busy => exact .inr (cleared (by simp [busy]) (advanceXfer_eq_release_of_rxstat_ne changed))
  | push b => exact absurd (hostPush_rxstat b _) changed
  | edge => exact absurd (clockEdge_rxstat _) changed
  | wasReset event => exact absurd event noReset
  | _ => exact absurd rfl changed

/-- Settles O34: a reset clears the mark, a byte after start-up sets it at a full FIFO, and no other step touches it. -/
theorem overrunMarkIsSticky : Obligations.OverrunMarkIsSticky := by
  unfold Obligations.OverrunMarkIsSticky
  intro s t stepped
  constructor
  · intro event
    cases (step_eq_answer event rfl rfl).symm.trans stepped
    rfl
  intro noReset
  by_cases push : ∃ b, nextEvent s = .hostPush b
  · obtain ⟨b, event⟩ := push
    cases init : s.initDone with
    | false =>
      rw [step_notEnabled (by rw [event]; exact init), event] at stepped
      cases stepped
    | true =>
      cases (step_eq_answer event init rfl).symm.trans stepped
      simp [hostPush, rxArrive_rxOverrun_iff, event]
  · simp [push, rxOverrun_unchanged (step_result stepped) (not_exists.1 push) noReset]

/-! ## The invariants, operation by operation -/

theorem inv_reset : State.reset.Inv where
  actlenLegal := (by decide : 1 ≤ (100 : Rate).toNat ∧ (100 : Rate).toNat ≤ 100)
  capIdxLegal := (by decide : (0 : CapIndex).toNat < 100)
  playIdxLegal := (by decide : (0 : PlayIndex).toNat < 200)
  periodMatches := rfl
  xferUpload := nofun
  xferDownload := nofun
  xferIdle _ _ := rfl
  claimedIsPending busy := absurd rfl busy
  fifoWithinDepth := Nat.zero_le _
  playPeriodFixed := rfl
  capForm := rfl
  playForm := rfl

section inv

variable {s : State}

theorem inv_resetBlock : (resetBlock s).Inv := { inv_reset with }

theorem inv_advance (inv : s.Inv) : s.advance.Inv := { inv with }

theorem inv_txEmit {w : Nat} (inv : s.Inv) (v : BitVec w) : (txEmit v s).Inv := { inv with }

theorem inv_drawNan (inv : s.Inv) : (drawNan s).Inv := { inv with }

theorem inv_gainDrive (inv : s.Inv) (g : Word) : (gainDrive g s).Inv := { inv with }

theorem inv_setInitDone (inv : s.Inv) : (setInitDone s).Inv := { inv with }

theorem inv_clockEdge (inv : s.Inv) : (clockEdge s).Inv := by
  rw [clockEdge_eq]
  exact { inv with }

/-- Taking bytes keeps I7. -/
theorem inv_withRx (inv : s.Inv) {rest : List Byte} (fewer : rest.length ≤ s.rxfifo.length) : (withRx rest s).Inv :=
  { inv with fifoWithinDepth := Nat.le_trans fewer inv.fifoWithinDepth }

/-- A byte that finds no room is dropped, which keeps I7. -/
theorem inv_hostPush (inv : s.Inv) (b : Byte) : (hostPush b s).Inv := by
  unfold hostPush rxArrive
  split
  case isTrue room => exact { inv with fifoWithinDepth := by simpa using room }
  case isFalse => exact { inv with }

/-- A parse keeps I6, since nothing is claimed. -/
theorem inv_publish (inv : s.Inv) (polling : s.dispCmd = .none) (c : Cmd) (len : Len) : (publish c len s).Inv :=
  { inv with claimedIsPending := fun busy => absurd polling busy }

/-- A claim sets I6 up, and I5 from index 0. -/
theorem inv_claimed (inv : s.Inv) : ({ s with dispCmd := s.pendCmd, xferIdx := 0 } : State).Inv :=
  { inv with
    xferUpload := fun _ => (by decide : (0 : XferIndex).toNat < 200)
    xferDownload := fun _ => (by decide : (0 : XferIndex).toNat < 100)
    xferIdle := fun _ _ => rfl
    claimedIsPending := fun _ => rfl }

/-- A release leaves nothing claimed and the index at 0. -/
theorem inv_release (inv : s.Inv) : (release s).Inv :=
  { inv with
    xferUpload := nofun
    xferDownload := nofun
    xferIdle := fun _ _ => rfl
    claimedIsPending := fun busy => absurd rfl busy }

/-- Length and period are written together, which keeps I4; the length is checked, which keeps I2. -/
theorem inv_setRate (inv : s.Inv) {n : Rate} (valid : rateValid n = true) : (setRate n s).Inv :=
  { inv with
    actlenLegal := (rateValid_iff n).1 valid
    periodMatches := rfl }

theorem inv_playStored (inv : s.Inv) {a : Nat} (inside : a < Config.playbackCapacity) (v : Sample) :
    ({ s with play := Memory.write s.play a v } : State).Inv :=
  { inv with playForm := memory_wf_write v inside inv.playForm }

theorem inv_capStored (inv : s.Inv) {a : Nat} (inside : a < Config.captureCapacity) (v : Sample) :
    ({ s with cap := Memory.write s.cap a v } : State).Inv :=
  { inv with capForm := memory_wf_write v inside inv.capForm }

/-- The bulk index does not wrap below the capacity of the larger buffer. -/
theorem xferIndex_succ_toNat {i : XferIndex} (inside : i.toNat < Config.playbackCapacity) :
    (i + 1).toNat = i.toNat + 1 :=
  BitVec.toNat_add_of_lt (y := 1) (Nat.lt_trans (Nat.succ_lt_succ inside) (by decide))

/-- An upload's step keeps I5: it releases after slot 199, so that the next index is below 200. -/
theorem inv_advanceXfer_upload (inv : s.Inv) (upload : s.dispCmd = .receiveWaveform) :
    (advanceXfer (Config.playbackCapacity - 1) s).Inv := by
  rcases advanceXfer_cases (Config.playbackCapacity - 1) s with ⟨-, released⟩ | ⟨notLast, moved⟩
  · rw [released]
    exact inv_release inv
  · rw [moved]
    have inside := inv.xferUpload upload
    have next := xferIndex_succ_toNat inside
    exact { inv with
      xferUpload := fun _ => by rw [nextXfer_xferIdx, next]; omega
      xferDownload := fun download => by simp [upload] at download
      xferIdle := fun noUpload => absurd upload noUpload }

/-- A download's step keeps I5: it releases after slot 99, so that the next index is below 100. -/
theorem inv_advanceXfer_download (inv : s.Inv) (download : s.dispCmd = .sendWaveform) :
    (advanceXfer (Config.captureCapacity - 1) s).Inv := by
  rcases advanceXfer_cases (Config.captureCapacity - 1) s with ⟨-, released⟩ | ⟨notLast, moved⟩
  · rw [released]
    exact inv_release inv
  · rw [moved]
    have inside := inv.xferDownload download
    have next := xferIndex_succ_toNat (Nat.lt_trans inside (by decide))
    exact { inv with
      xferUpload := fun upload => by simp [download] at upload
      xferDownload := fun _ => by rw [nextXfer_xferIdx, next]; omega
      xferIdle := fun _ noDownload => absurd download noDownload }

/-- The cursor's advance keeps I3: the next index is below the active length, which I2 bounds by the capacity. -/
theorem inv_finishAcq (inv : s.Inv) : (finishAcq s).Inv :=
  { inv with
    capIdxLegal := by
      obtain ⟨positive, legal⟩ := inv.actlenLegal
      exact Nat.lt_of_le_of_lt (Nat.mod_le _ _) (Nat.lt_of_lt_of_le (nextIdx_lt _ positive) legal) }

theorem inv_finishPlay (inv : s.Inv) (y : Sample) : (finishPlay y s).Inv :=
  { inv with playIdxLegal := Nat.lt_of_le_of_lt (Nat.mod_le _ _) (nextIdx_lt _ (by decide)) }

end inv

/-- Settles O57, by the inversion of the step: each of its cases is made of operations that keep the invariants. -/
theorem everyStepKeepsInvariant : Obligations.EveryStepKeepsInvariant := by
  unfold Obligations.EveryStepKeepsInvariant
  intro s t inv stepped
  have start := inv_advance inv
  have taken {rest : List Byte} {p0 p1 : Byte} (bytes : s.rxfifo = p0 :: p1 :: rest) : (withRx rest s.advance).Inv :=
    inv_withRx start (by simp [bytes]; omega)
  cases step_result stepped with
  | idle => exact start
  | push b => exact inv_hostPush start b
  | parse _ _ _ _ _ _ polling bytes => exact inv_publish (inv_withRx start (by simp [bytes]; omega)) polling _ _
  | claimed => exact inv_claimed start
  | rateSet _ _ _ _ _ _ bytes valid => exact inv_release (inv_setRate (taken bytes) valid)
  | rateIgnored _ _ _ _ _ _ bytes => exact inv_release (taken bytes)
  | rateSent => exact inv_release (inv_txEmit start _)
  | sampleStored _ _ _ _ _ busy bytes inside =>
    exact inv_advanceXfer_upload (inv_playStored (taken bytes) inside _) busy
  | sampleSent _ _ busy => exact inv_advanceXfer_download (inv_txEmit start _) busy
  | sampleTaken x _ _ _ _ inside => exact inv_finishAcq (inv_capStored start inside x)
  | samplePlayed y => exact inv_finishPlay start y
  | nanPlayed => exact inv_finishPlay (inv_drawNan start) _
  | edge => exact inv_clockEdge start
  | gainDriven g => exact inv_gainDrive start g
  | started => exact inv_setInitDone start
  | wasReset => exact inv_resetBlock

/-- Settles O56: the reset values meet every invariant, and empty memories are in canonical form. -/
theorem invariantHoldsAtReset : Obligations.InvariantHoldsAtReset := inv_reset

end Sys2Proof.Machine

/-!
# Proofs: where a step stops (spec 20_memory.md R43, R44; 93_implementation_defined.md U9)

Four accesses to the sample store and one modulus can stop a step. For each the two sides are said once: inside its bounds
the operation answers, outside them it faults or is refused. The invariants of R41 give the bounds.
-/

namespace Sys2Proof.Machine

/-! ## Inside the bounds an operation answers -/

section answers

variable {s : State}

theorem recvRateAction_answers (s : State) : ∃ t, recvRateAction s = .next t := by
  rcases recvRateAction_cases s with ⟨-, waits⟩ | ⟨_, _, _, -, ⟨-, sets⟩ | ⟨-, ignores⟩⟩
  · exact ⟨_, waits⟩
  · exact ⟨_, sets⟩
  · exact ⟨_, ignores⟩

theorem recvWaveAction_answers (inside : s.xferIdx.toNat < Config.playbackCapacity) :
    ∃ t, recvWaveAction s = .next t := by
  rcases recvWaveAction_cases s with ⟨-, waits⟩ | ⟨_, _, _, -, ⟨-, stores⟩ | ⟨outside, -⟩⟩
  · exact ⟨_, waits⟩
  · exact ⟨_, stores⟩
  · exact absurd inside (Nat.not_lt_of_le outside)

theorem sendWaveAction_answers (inside : s.xferIdx.toNat < Config.captureCapacity) :
    ∃ t, sendWaveAction s = .next t := by
  rcases sendWaveAction_cases s with ⟨-, sends⟩ | ⟨outside, -⟩
  · exact ⟨_, sends⟩
  · exact absurd inside (Nat.not_lt_of_le outside)

theorem acqTick_answers (x : Sample) (legal : rateValid s.actlen = true)
    (inside : s.capIdx.toNat < Config.captureCapacity) : ∃ t, acqTick x s = .next t := by
  rcases acqTick_cases x s with ⟨-, -, stores⟩ | ⟨-, outside, -⟩ | ⟨illegal, -⟩
  · exact ⟨_, stores⟩
  · exact absurd inside (Nat.not_lt_of_le outside)
  · simp [legal] at illegal

theorem playTick_answers (inside : s.playIdx.toNat < Config.playbackCapacity) : ∃ t, playTick s = .next t := by
  rcases playTick_cases s with ⟨-, ⟨_, -, plays⟩ | ⟨-, playsFree⟩⟩ | ⟨outside, -⟩
  · exact ⟨_, plays⟩
  · exact ⟨_, playsFree⟩
  · exact absurd inside (Nat.not_lt_of_le outside)

/-- An instruction answers where the bulk index is inside the buffer of the claimed transfer (I5). -/
theorem exec_answers (i : Instr) (upload : s.dispCmd = .receiveWaveform → s.xferIdx.toNat < Config.playbackCapacity)
    (download : s.dispCmd = .sendWaveform → s.xferIdx.toNat < Config.captureCapacity) : ∃ t, exec i s = .next t := by
  rcases exec_cases i s with nothing | ⟨-, -, _, publishes⟩ | ⟨-, -, runs⟩ | ⟨-, -, runs⟩ | ⟨-, busy, runs⟩ |
    ⟨-, busy, runs⟩
  · exact ⟨_, nothing⟩
  · exact ⟨_, publishes⟩
  · exact runs ▸ recvRateAction_answers s
  · exact ⟨_, runs⟩
  · exact runs ▸ recvWaveAction_answers (upload busy)
  · exact runs ▸ sendWaveAction_answers (download busy)

end answers

/-! ## Outside the bounds it stops -/

section stops

variable {s : State}

/-- The action of a claimed command is its step. -/
theorem runCommand_claimed {c : Cmd} (busy : c ≠ .none) (len : Len) (action : State → Answer)
    (init : s.initDone = true) (claimed : s.dispCmd = c) : runCommand c len action s = action s := by
  subst claimed
  simp [runCommand, init, busy]

theorem recvWaveAction_faults (payload : 2 ≤ s.rxfifo.length) (outside : Config.playbackCapacity ≤ s.xferIdx.toNat) :
    recvWaveAction s = .fault .playIndexOutOfRange := by
  rcases recvWaveAction_cases s with ⟨short, -⟩ | ⟨_, _, _, -, ⟨inside, -⟩ | ⟨-, faults⟩⟩
  · exact absurd short (Nat.not_lt_of_le payload)
  · exact absurd inside (Nat.not_lt_of_le outside)
  · exact faults

theorem sendWaveAction_faults (outside : Config.captureCapacity ≤ s.xferIdx.toNat) :
    sendWaveAction s = .fault .capIndexOutOfRange := by
  rcases sendWaveAction_cases s with ⟨inside, -⟩ | ⟨-, faults⟩
  · exact absurd inside (Nat.not_lt_of_le outside)
  · exact faults

theorem acqTick_faults (x : Sample) (legal : rateValid s.actlen = true)
    (outside : Config.captureCapacity ≤ s.capIdx.toNat) : acqTick x s = .fault .capIndexOutOfRange := by
  rcases acqTick_cases x s with ⟨-, inside, -⟩ | ⟨-, -, faults⟩ | ⟨illegal, -⟩
  · exact absurd inside (Nat.not_lt_of_le outside)
  · exact faults
  · simp [legal] at illegal

theorem acqTick_refused_iff (x : Sample) :
    acqTick x s = .refused .activeLengthIllegal ↔ rateValid s.actlen = false := by
  rcases acqTick_cases x s with ⟨legal, -, stores⟩ | ⟨legal, -, faults⟩ | ⟨illegal, refuses⟩
  · simp [stores, legal]
  · simp [faults, legal]
  · simp [refuses, illegal]

theorem playTick_faults (outside : Config.playbackCapacity ≤ s.playIdx.toNat) :
    playTick s = .fault .playIndexOutOfRange := by
  rcases playTick_cases s with ⟨inside, -⟩ | ⟨-, faults⟩
  · exact absurd inside (Nat.not_lt_of_le outside)
  · exact faults

end stops

/-! ## The step under the invariants -/

/-- The fetch takes bytes off the FIFO and leaves the rest of the state as it is. -/
theorem fetchHeader_eq_some {s t : State} {i : Instr} (fetched : fetchHeader s = some (i, t)) :
    ∃ rest, t = withRx rest s := by
  unfold fetchHeader at fetched
  split at fetched
  · cases fetched
    exact ⟨_, rfl⟩
  · cases fetched

/-- An event whose guard holds answers: I2, I3 and I5 are the bounds of what it accesses. -/
theorem perform_answers {e : Event} {s : State} (inv : s.Inv) (enabled : e.enabled s = true) :
    ∃ t, perform e s = .next t := by
  have instruction (i : Instr) : ∃ t, exec i s = .next t := exec_answers i inv.xferUpload inv.xferDownload
  rw [perform_enabled enabled]
  cases e with
  | rxHeader =>
    cases fetched : fetchHeader s with
    | none => exact ⟨s, by simp [takeEvent, fetched]⟩
    | some header =>
      obtain ⟨i, t⟩ := header
      obtain ⟨rest, rfl⟩ := fetchHeader_eq_some fetched
      simpa [takeEvent, fetched] using exec_answers i (s := withRx rest s) inv.xferUpload inv.xferDownload
  | execRecvRate => exact instruction _
  | execSendRate => exact instruction _
  | execRecvWave => exact instruction _
  | execSendWave => exact instruction _
  | acqTick x => exact acqTick_answers x ((rateValid_iff _).2 inv.actlenLegal) inv.capIdxLegal
  | playTick => exact playTick_answers inv.playIdxLegal
  | _ => exact ⟨_, rfl⟩

/-! ## The obligations -/

/-- Settles O58: an event whose guard holds answers; of those whose guard fails, only a byte is refused, and its guard is
`INIT_DONE`. -/
theorem noStepFaultsUnderInvariant : Obligations.NoStepFaultsUnderInvariant := by
  unfold Obligations.NoStepFaultsUnderInvariant
  intro s inv
  cases enabled : (nextEvent s).enabled s with
  | true => exact .inl (perform_answers (inv_advance inv) (by rwa [enabled_advance]))
  | false =>
    by_cases push : ∃ b, nextEvent s = .hostPush b
    · obtain ⟨b, event⟩ := push
      have notDone : s.initDone = false := by rwa [event] at enabled
      exact .inr ⟨notDone, ⟨b, event⟩, by rw [step_notEnabled enabled, event]⟩
    · exact .inl ⟨_, step_eq_advance_of_not_enabled enabled (not_exists.1 push)⟩

/-- Settles O59: a claimed command's step is its action and a requested tick's step is the tick, so each clause is what that
operation does outside its bounds. -/
theorem illegalIndexOrLengthStops : Obligations.IllegalIndexOrLengthStops := by
  unfold Obligations.IllegalIndexOrLengthStops
  have acqStep {s : State} {x : Sample} (event : nextEvent s = .acqTick x) (init : s.initDone = true)
      (requested : s.acqReq = true) : step s = acqTick x s.advance :=
    step_eq_answer event (by simp [Event.enabled, init, requested]) rfl
  refine ⟨fun len s init claimed payload outside => ?_, fun len s init claimed outside => ?_,
    fun s x event init requested => ?_, fun s x event init requested least most outside => ?_,
    fun s event init requested outside => ?_⟩
  · exact (runCommand_claimed (c := .receiveWaveform) nofun len _ init claimed).trans
      (recvWaveAction_faults payload outside)
  · exact (runCommand_claimed (c := .sendWaveform) nofun len _ init claimed).trans (sendWaveAction_faults outside)
  · rw [acqStep event init requested, acqTick_refused_iff]
    exact rateValid_false_iff s.actlen
  · rw [acqStep event init requested]
    exact acqTick_faults x ((rateValid_iff _).2 ⟨least, most⟩) outside
  · rw [step_eq_answer event (by simp [Event.enabled, init, requested]) rfl]
    exact playTick_faults outside

end Sys2Proof.Machine

/-!
# Proofs: the encoding of headers (spec 30_encoding.md R62 to R66)

The decoder takes an id byte and a length field to a well-formed instruction that carries both, and takes the two fields
of a well-formed instruction back to it. The round trips follow, since a header's three bytes and its two fields determine
each other.
-/

namespace Sys2Proof

/-! ## The decoder against the fields of an instruction -/

theorem idByte_decodeHeader (id : CmdId) (len : Len) : (decodeHeader id len).idByte = id := by
  rcases Nat.lt_or_ge id.toNat 6 with single | range
  · rcases idByte_below_six single with rfl | rfl | rfl | rfl | rfl | rfl <;> rfl
  · rw [decodeHeader_of_six_le len range]
    split_ifs <;> rfl

theorem wf_decodeHeader (id : CmdId) (len : Len) : (decodeHeader id len).wf = true := by
  rcases Nat.lt_or_ge id.toNat 6 with single | range
  · rcases idByte_below_six single with rfl | rfl | rfl | rfl | rfl | rfl <;> rfl
  · have most := Machine.byte_lt id
    rw [decodeHeader_of_six_le len range]
    split_ifs <;> exact idWithin_iff.2 (by omega)

/-- The range of a well-formed instruction's id is the one the decoder tests for its row (41_dispatch_commands.md R95). -/
theorem decodeHeader_idByte_lenField {i : Instr} (wf : i.wf = true) : decodeHeader i.idByte i.lenField = i := by
  cases i with
  | none | receiveRate | sendRate | receiveWaveform | sendWaveform | invalid05 => rfl
  | invalid06to07 id len | invalid08to0F id len | invalid10to1F id len | invalid20to3F id len | invalid40to7F id len
  | invalid80toFF id len =>
    obtain ⟨least, most⟩ := idWithin_iff.1 wf
    simp (disch := omega) only [Instr.idByte, Instr.lenField, decodeHeader_of_six_le, if_pos, if_neg]

/-! ## The round trips -/

theorem decode_encode {i : Instr} (wf : i.wf = true) (rest : List Byte) : decode (encode i ++ rest) = .ok (i, rest) := by
  obtain ⟨b1, b2, bytes, len⟩ := encode_eq i
  rw [bytes]
  exact (decode_cons i.idByte b1 b2 rest).trans (by rw [len, decodeHeader_idByte_lenField wf])

theorem encode_decodeHeader (b0 b1 b2 : Byte) : encode (decodeHeader b0 (Machine.le16 b1 b2)) = [b0, b1, b2] := by
  rw [encode, idByte_decodeHeader, Machine.lenField_decodeHeader]
  exact congrArg₂ (· ++ ·) (Machine.toLe_one b0) (Machine.toLe_le16 b1 b2)

/-- Settles O1: an encoding's bytes carry the instruction's id byte and length field, which decode to it. -/
theorem decodeOfEncodeIsIdentity : Obligations.DecodeOfEncodeIsIdentity := fun _ rest wf => decode_encode wf rest

/-- Settles O2: the instruction is the one the bytes decode to; any other with this encoding would decode from it too. -/
theorem everyHeaderIsOneInstruction : Obligations.EveryHeaderIsOneInstruction := by
  unfold Obligations.EveryHeaderIsOneInstruction
  intro b0 b1 b2 rest
  refine ⟨decodeHeader b0 (Machine.le16 b1 b2), wf_decodeHeader _ _, decode_cons b0 b1 b2 rest,
    encode_decodeHeader b0 b1 b2, fun j wf encoded => ?_⟩
  have decoded := decode_encode wf rest
  rw [encoded] at decoded
  cases decoded.symm.trans (decode_cons b0 b1 b2 rest)
  rfl

/-- Settles O4: nine headers by what three bytes decode to, and two bytes are too few. -/
theorem writtenOutHeadersDecode : Obligations.WrittenOutHeadersDecode := by
  unfold Obligations.WrittenOutHeadersDecode
  exact ⟨decode_cons _ _ _ _, decode_cons _ _ _ _, decode_cons _ _ _ _, decode_cons _ _ _ _, decode_cons _ _ _ _,
    decode_cons _ _ _ _, decode_cons _ _ _ _, decode_cons _ _ _ _, decode_cons _ _ _ _, decode_short (by decide)⟩

/-! ## The opcode table -/

/-- No row's mask reaches above the id field (R63). -/
theorem mask_within_id : ∀ r ∈ opcodeRows, 0xFF &&& r.mask = r.mask := by decide

/-- The id field of a header word is its first byte. -/
theorem idField_headerWord (b0 b1 b2 : Byte) : headerWord [b0, b1, b2] &&& 0xFF = b0.setWidth _ := by
  have small := Machine.byte_lt b0
  apply BitVec.eq_of_toNat_eq
  rw [BitVec.toNat_and, headerWord_toNat, BitVec.toNat_setWidth]
  calc (b0.toNat + 256 * b1.toNat + 65536 * b2.toNat) &&& (2 ^ 8 - 1)
      = (b0.toNat + 256 * b1.toNat + 65536 * b2.toNat) % 2 ^ 8 := Nat.and_two_pow_sub_one_eq_mod _ 8
    _ = b0.toNat % 2 ^ Config.headerW := by rw [Machine.headerW_eq]; omega

/-- The id byte alone decides which rows a header word selects. -/
theorem rowSelects_headerWord {r : OpcodeRow} (row : r ∈ opcodeRows) (b0 b1 b2 : Byte) :
    rowSelects (headerWord [b0, b1, b2]) r = rowSelects (b0.setWidth _) r := by
  rw [rowSelects, rowSelects, ← mask_within_id r row, ← BitVec.and_assoc, idField_headerWord, mask_within_id r row]

/-- Each of the 256 ids selects the row of its instruction and no other. -/
theorem rows_selected_by_id : ∀ id : CmdId,
    (opcodeRows.filter (rowSelects (id.setWidth _))).map OpcodeRow.mnemonic = [(decodeHeader id 0).mnemonic] := by
  decide

/-- The length field does not choose the row. -/
theorem mnemonic_decodeHeader (id : CmdId) (len len' : Len) :
    (decodeHeader id len).mnemonic = (decodeHeader id len').mnemonic := by
  rcases Nat.lt_or_ge id.toNat 6 with single | range
  · rcases idByte_below_six single with rfl | rfl | rfl | rfl | rfl | rfl <;> rfl
  · rw [decodeHeader_of_six_le len range, decodeHeader_of_six_le len' range]
    split_ifs <;> rfl

/-- Settles O3: the rows look at the id byte alone, and so does the decoder's choice of the instruction. -/
theorem headerSelectsExactlyItsRow : Obligations.HeaderSelectsExactlyItsRow := by
  unfold Obligations.HeaderSelectsExactlyItsRow
  intro b0 b1 b2
  rw [List.filter_congr fun r row => rowSelects_headerWord row b0 b1 b2, rows_selected_by_id,
    mnemonic_decodeHeader b0 (Machine.le16 b1 b2) 0]

end Sys2Proof

namespace Sys2Proof.Machine

/-! ## What a parse stores -/

/-- The Command Receiver's step on a header: its bytes are taken and its record is published (40_header_parse.md R78). -/
theorem step_parses {s : State} {b0 b1 b2 : Byte} {rest : List Byte} (event : nextEvent s = .rxHeader)
    (init : s.initDone = true) (polling : s.dispCmd = .none) (bytes : s.rxfifo = b0 :: b1 :: b2 :: rest) :
    step s = .next (publish (decodeCmd b0) (le16 b1 b2) (withRx rest s.advance)) := by
  have decoded : decode s.rxfifo = .ok (decodeHeader b0 (le16 b1 b2), rest) := bytes ▸ decode_cons b0 b1 b2 rest
  calc step s = exec (decodeHeader b0 (le16 b1 b2)) (withRx rest s.advance) :=
        stepRunsDecodedHeader s _ rest event init polling decoded
    _ = .next (publish (decodeCmd b0) (le16 b1 b2) (withRx rest s.advance)) := by
        rw [exec_publishes (s := withRx rest s.advance) _ init polling, storedAs_decodeHeader, lenField_decodeHeader]

/-- The stored code is the id where the table has a command for it and 0 elsewhere (30_encoding.md R64, R65). -/
theorem decodeCmd_code_toNat (id : CmdId) : (decodeCmd id).code.toNat = if id.toNat ≤ 4 then id.toNat else 0 := by
  rcases Nat.lt_or_ge id.toNat 6 with single | range
  · rcases idByte_below_six single with rfl | rfl | rfl | rfl | rfl | rfl <;> rfl
  · rw [Laws.StoredCommand.decodeCmd_of_invalid (Nat.le_of_succ_le range), if_neg (by omega)]
    rfl

/-- Settles O8: the parse stores the command of the id byte, and that command's code is the id or 0. -/
theorem storedCommandIsDecodedId : Obligations.StoredCommandIsDecodedId := by
  unfold Obligations.StoredCommandIsDecodedId
  intro s b0 b1 b2 rest event init polling bytes
  exact ⟨_, step_parses event init polling bytes, decodeCmd_code_toNat b0⟩

/-- Settles O9: the parse stores the length field as `le16` assembles it, whatever command it stores. -/
theorem lengthFieldStoredForEveryId : Obligations.LengthFieldStoredForEveryId := by
  unfold Obligations.LengthFieldStoredForEveryId
  intro s b0 b1 b2 rest event init polling bytes
  exact ⟨_, step_parses event init polling bytes, le16_toNat b1 b2⟩

end Sys2Proof.Machine

/-!
# Proofs: the header parse (spec 40_header_parse.md R75 to R83)

When the Command Receiver runs and what its parse leaves, the byte-by-byte refinement of that parse, and the claim that
follows it or waits.
-/

namespace Sys2Proof.Machine

/-! ## The byte that arrives -/

/-- Settles O33: the guard is `INIT_DONE`, and the two cases are those of a byte's arrival. -/
theorem pushedByteIsQueuedOrOverruns : Obligations.PushedByteIsQueuedOrOverruns := by
  unfold Obligations.PushedByteIsQueuedOrOverruns
  intro s b event init
  rw [step_eq_answer (o := .next (hostPush b s.advance)) event init rfl, hostPush, rxArrive_eq]
  by_cases room : s.rxfifo.length < Config.rxFifoDepth <;> simp [room, State.advance]

/-! ## When the Command Receiver runs, and what it publishes -/

/-- Settles O7: the parse takes the three bytes, publishes the record, and counts the turn. -/
theorem headerParsePublishesRecord : Obligations.HeaderParsePublishesRecord := by
  unfold Obligations.HeaderParsePublishesRecord
  exact fun s b0 b1 b2 rest event init polling bytes => step_parses event init polling bytes

/-- Settles O10: the guard is the three conditions, and a step whose guard fails only counts the turn. -/
theorem receiverEnabledExactly : Obligations.ReceiverEnabledExactly := by
  unfold Obligations.ReceiverEnabledExactly
  refine fun s => ⟨rxHeader_enabled_iff s, fun event guardFails => ?_⟩
  have disabled : (nextEvent s).enabled s = false := by
    rw [event, Bool.eq_false_iff, ne_eq, rxHeader_enabled_iff]
    exact guardFails
  exact step_eq_advance_of_not_enabled disabled (by simp [event])

/-- The command a well-formed instruction is stored as is the one its id byte stands for (30_encoding.md R65). -/
theorem storedAs_eq_decodeCmd_idByte {i : Instr} (wf : i.wf = true) :
    Laws.StoredCommand.storedAs i = decodeCmd i.idByte := by
  rw [← storedAs_decodeHeader i.idByte i.lenField, decodeHeader_idByte_lenField wf]

/-- Settles O13: each instruction publishes the command it is stored as, which is that of its id byte. -/
theorem everyInstructionPublishes : Obligations.EveryInstructionPublishes := by
  unfold Obligations.EveryInstructionPublishes
  intro i s wf init polling
  rw [exec_publishes i init polling, storedAs_eq_decodeCmd_idByte wf, publish]

/-! ## A second header before the claim -/

/-- In a polling state a claim leaves the pending command claimed, `NONE` included (it goes on polling). -/
theorem claim_of_polling {s : State} (polling : s.dispCmd = .none) :
    claim s = { s with
      dispCmd := s.pendCmd
      xferIdx := if s.pendCmd = .none then s.xferIdx else 0 } := by
  have claimed : (if s.pendCmd = .none then s.dispCmd else s.pendCmd) = s.pendCmd := by
    split
    · next nothing => rw [polling, nothing]
    · rfl
  rw [claim_eq, claimed]

/-- The claim of a polling dispatcher after start-up, with the command `c` pending. -/
theorem step_claims {s : State} {c : Cmd} (event : nextEvent s = .claim) (init : s.initDone = true)
    (polling : s.dispCmd = .none) (pending : s.pendCmd = c) :
    step s = .next { s.advance with dispCmd := c, xferIdx := if c = .none then s.xferIdx else 0 } := by
  subst pending
  rw [step_eq_answer event (by simp [Event.enabled, init, polling]) rfl, claim_of_polling (s := s.advance) polling]
  rfl

/-- What a parse of the header `b0 b1 b2` leaves, `rest` being the bytes after it (`step_parses`). -/
def afterParse (b0 b1 b2 : Byte) (rest : List Byte) (s : State) : State :=
  publish (decodeCmd b0) (le16 b1 b2) (withRx rest s.advance)

/-- Settles O11: two parses and a claim in turn; the second publish writes every field of the record that the first
wrote, and the claim reads that record alone. -/
theorem unclaimedHeaderIsOverwritten : Obligations.UnclaimedHeaderIsOverwritten := by
  unfold Obligations.UnclaimedHeaderIsOverwritten
  intro s a0 a1 a2 b0 b1 b2 rest more init polling bytes script
  have twoParses : runFor 3 s =
      runFor 1 (afterParse b0 b1 b2 rest (afterParse a0 a1 a2 (b0 :: b1 :: b2 :: rest) s)) :=
    (runFor_succ 2 (step_parses (nextEvent_of_script script) init polling bytes)).trans
      (runFor_succ 1 (step_parses (nextEvent_of_script (congrArg List.tail script)) init polling rfl))
  have claimNext : nextEvent (afterParse b0 b1 b2 rest (afterParse a0 a1 a2 (b0 :: b1 :: b2 :: rest) s)) = .claim :=
    nextEvent_of_script (congrArg (List.tail ∘ List.tail) script)
  rw [twoParses, runFor_succ 0 (step_claims (c := decodeCmd b0) claimNext init polling rfl), runFor_zero]
  simp [afterParse, script]

/-! ## The framing machine -/

/-- Bytes that decode to an instruction are the three bytes of its header and the bytes after it. -/
theorem decode_eq_ok {bs rest : List Byte} {i : Instr} (decoded : decode bs = .ok (i, rest)) :
    ∃ b0 b1 b2, bs = b0 :: b1 :: b2 :: rest ∧ i = decodeHeader b0 (le16 b1 b2) := by
  obtain ⟨b0, b1, b2, after, rfl⟩ : ∃ b0 b1 b2 after, bs = b0 :: b1 :: b2 :: after := by
    match bs, three_le_length_of_decode decoded with
    | b0 :: b1 :: b2 :: after, _ => exact ⟨b0, b1, b2, after, rfl⟩
  cases (decode_cons b0 b1 b2 after).symm.trans decoded
  exact ⟨b0, b1, b2, rfl, rfl⟩

section framing

variable {f : Framing} {b : Byte} {rest : List Byte}

/-- `FR_WAIT` is left under the guard of `RxHeader`. -/
theorem framingMove_wait (state : f.fr = .wait) (guard : Event.rxHeader.enabled f.block = true) :
    framingMove f = { f with fr := .cmd } := by
  simp only [framingMove, state]
  exact if_pos guard

theorem framingMove_cmd (state : f.fr = .cmd) (bytes : f.block.rxfifo = b :: rest) :
    framingMove f = { f with fr := .lenLo, frCmd := b, block := withRx rest f.block } := by
  simp only [framingMove, state, bytes]

theorem framingMove_lenLo (state : f.fr = .lenLo) (bytes : f.block.rxfifo = b :: rest) :
    framingMove f = { f with fr := .lenHi, frLo := b, block := withRx rest f.block } := by
  simp only [framingMove, state, bytes]

/-- The last move publishes what the two latches and the last byte hold. -/
theorem framingMove_lenHi (state : f.fr = .lenHi) (bytes : f.block.rxfifo = b :: rest) :
    framingMove f = { f with
      fr := .wait, block := publish (decodeCmd f.frCmd) (le16 f.frLo b) (withRx rest f.block) } := by
  have latched : (ofLe [f.frCmd] : CmdId) = f.frCmd := ofLe_one f.frCmd
  simp only [framingMove, state, bytes, latched, le16]

/-- The four moves latch the first two bytes and end in the published parse. -/
theorem framingRun_eq {b0 b1 b2 : Byte} (state : f.fr = .wait) (guard : Event.rxHeader.enabled f.block = true)
    (bytes : f.block.rxfifo = b0 :: b1 :: b2 :: rest) :
    framingRun f =
      { fr := .wait, frCmd := b0, frLo := b1, block := publish (decodeCmd b0) (le16 b1 b2) (withRx rest f.block) } := by
  calc framingRun f
      = framingMove (framingMove (framingMove { f with fr := .cmd })) := by
        rw [framingRun, framingMove_wait state guard]
    _ = framingMove (framingMove { f with fr := .lenLo, frCmd := b0, block := withRx (b1 :: b2 :: rest) f.block }) := by
        rw [framingMove_cmd (f := { f with fr := .cmd }) rfl bytes]
    _ = framingMove
          { f with fr := .lenHi, frCmd := b0, frLo := b1, block := withRx (b2 :: rest) f.block } :=
        congrArg framingMove (framingMove_lenLo rfl rfl)
    _ = { fr := .wait, frCmd := b0, frLo := b1, block := publish (decodeCmd b0) (le16 b1 b2) (withRx rest f.block) } :=
        framingMove_lenHi rfl rfl

end framing

/-- Settles O12: both end in the publish of the three bytes, once the bytes that decode are written out. -/
theorem framingMachineRefinesParse : Obligations.FramingMachineRefinesParse := by
  unfold Obligations.FramingMachineRefinesParse
  intro f i rest state init polling decoded
  have guard : Event.rxHeader.enabled f.block = true :=
    (rxHeader_enabled_iff f.block).2 ⟨init, three_le_length_of_decode decoded, polling⟩
  obtain ⟨b0, b1, b2, bytes, rfl⟩ := decode_eq_ok decoded
  have parsed := exec_publishes (s := withRx rest f.block) (decodeHeader b0 (le16 b1 b2)) init polling
  rw [storedAs_decodeHeader, lenField_decodeHeader] at parsed
  rw [framingRun_eq state guard bytes]
  exact ⟨rfl, parsed⟩

/-! ## A receive command that waits for its payload -/

section waiting

variable {s : State}

theorem recvRateAction_waits (short : s.rxfifo.length < 2) : recvRateAction s = .next s := by
  rcases recvRateAction_cases s with ⟨-, waits⟩ | ⟨_, _, _, bytes, -⟩
  · exact waits
  · simp [bytes] at short

theorem recvWaveAction_waits (short : s.rxfifo.length < 2) : recvWaveAction s = .next s := by
  rcases recvWaveAction_cases s with ⟨-, waits⟩ | ⟨_, _, _, bytes, -⟩
  · exact waits
  · simp [bytes] at short

/-- While a receive command waits no instruction does anything (41_dispatch_commands.md R98; log 4). -/
theorem exec_waits (claimed : s.dispCmd = .receiveRate ∨ s.dispCmd = .receiveWaveform) (short : s.rxfifo.length < 2)
    (i : Instr) : exec i s = .next s := by
  rcases exec_cases i s with nothing | ⟨-, polling, -⟩ | ⟨-, -, runs⟩ | ⟨-, other, -⟩ | ⟨-, -, runs⟩ | ⟨-, other, -⟩
  · exact nothing
  · simp [polling] at claimed
  · exact runs.trans (recvRateAction_waits short)
  · simp [other] at claimed
  · exact runs.trans (recvWaveAction_waits short)
  · simp [other] at claimed

/-- A waiting receive command holds the Command Receiver and the claim, is neither of the two sends, and lacks the payload
of the two receives. -/
theorem not_enabled_while_waiting (claimed : s.dispCmd = .receiveRate ∨ s.dispCmd = .receiveWaveform)
    (short : s.rxfifo.length < 2) {e : Event}
    (commandSide : e ∈ [.rxHeader, .claim, .execRecvRate, .execSendRate, .execRecvWave, .execSendWave]) :
    e.enabled s = false := by
  have busy : s.dispCmd ≠ .none := by rcases claimed with h | h <;> simp [h]
  have noPayload : ¬ 2 ≤ s.rxfifo.length := Nat.not_le_of_lt short
  simp only [List.mem_cons, List.not_mem_nil, or_false] at commandSide
  rw [Bool.eq_false_iff]
  rcases commandSide with rfl | rfl | rfl | rfl | rfl | rfl
  · simp [rxHeader_enabled_iff, busy]
  · simp [Event.enabled, busy]
  · simp [execRecvRate_enabled_iff, noPayload]
  · rcases claimed with h | h <;> simp [execSendRate_enabled_iff, h]
  · simp [execRecvWave_enabled_iff, noPayload]
  · rcases claimed with h | h <;> simp [execSendWave_enabled_iff, h]

end waiting

/-- Settles O23: none of the six guards holds, and both actions wait for their bytes. -/
theorem receiveCommandsWaitForPayload : Obligations.ReceiveCommandsWaitForPayload := by
  unfold Obligations.ReceiveCommandsWaitForPayload
  intro s claimed short
  refine ⟨fun commandSide => ?_, fun len => ⟨exec_waits claimed short _, exec_waits claimed short _⟩⟩
  exact step_eq_advance_of_not_enabled (not_enabled_while_waiting claimed short commandSide)
    fun b push => by simp [push] at commandSide

end Sys2Proof.Machine

/-!
# Proofs: the commands and the dispatcher (spec 41_dispatch_commands.md R84 to R99)

A command's step is its action once the command is claimed; each action is said once as a step of the machine. The rules
of the whole dispatcher then follow by the inversion of the step, and the runs of whole commands step by step.
-/

namespace Sys2Proof.Machine

/-! ## The dispatcher's register -/

theorem claim_enabled_iff (s : State) :
    Event.claim.enabled s = true ↔ s.initDone = true ∧ s.dispCmd = .none := by
  simp [Event.enabled]

/-- The last sample of a bulk transfer releases the command, any other keeps it claimed (R92, R94). -/
theorem advanceXfer_dispCmd (last : Nat) (s : State) :
    (advanceXfer last s).dispCmd = if s.xferIdx.toNat = last then .none else s.dispCmd := by
  unfold advanceXfer
  split <;> rfl

@[simp] theorem hostPush_dispCmd (b : Byte) (s : State) : (hostPush b s).dispCmd = s.dispCmd := by
  rw [hostPush, rxArrive_eq]

@[simp] theorem clockEdge_dispCmd (s : State) : (clockEdge s).dispCmd = s.dispCmd := by rw [clockEdge_eq]

/-- Settles O29, by the inversion of the step: where no guard holds none of the table's conditions does, each action of
the dispatcher makes the move of its row, and no other operation touches the register. -/
theorem dispatcherTransitions : Obligations.DispatcherTransitions := by
  unfold Obligations.DispatcherTransitions
  intro s t stepped
  cases step_result stepped with
  | idle quiet =>
    rcases quiet with disabled | ⟨event, pending⟩
    · have unmet {P : Prop} [Decidable P] {c : Cmd} (guard : P → (nextEvent s).enabled s = true) :
          s.dispCmd = if P then c else s.dispCmd := (if_neg fun met => by simp [guard met] at disabled).symm
      cases event : nextEvent s <;> rw [event] at disabled unmet
      case claim => exact unmet (claim_enabled_iff s).2
      case execRecvRate => exact unmet (execRecvRate_enabled_iff s).2
      case execSendRate => exact unmet (execSendRate_enabled_iff s).2
      case execRecvWave =>
        exact unmet fun ⟨init, claimed, payload, _⟩ => (execRecvWave_enabled_iff s).2 ⟨init, claimed, payload⟩
      case execSendWave =>
        exact unmet fun ⟨init, claimed, _⟩ => (execSendWave_enabled_iff s).2 ⟨init, claimed⟩
      case reset => simp [Event.enabled] at disabled
      all_goals rfl
    · rw [event]
      change s.dispCmd = if s.initDone = true ∧ s.dispCmd = .none then s.pendCmd else s.dispCmd
      split_ifs with guard
      · rw [guard.2, pending]
      · rfl
  | push b event => rw [event, hostPush_dispCmd]; rfl
  | claimed event init polling => simp [event, init, polling]
  | rateSet _ _ _ event init busy bytes => simp [event, init, busy, bytes]
  | rateIgnored _ _ _ event init busy bytes => simp [event, init, busy, bytes]
  | rateSent event init busy => simp [event, init, busy]
  | sampleStored _ _ _ event init busy bytes => simp [event, init, busy, bytes, advanceXfer_dispCmd]
  | sampleSent event init busy => simp [event, init, busy, advanceXfer_dispCmd]
  | edge event => rw [event, clockEdge_dispCmd]; rfl
  | parse _ _ _ _ event | sampleTaken _ event | samplePlayed _ event | nanPlayed event | gainDriven _ event
  | started event | wasReset event => rw [event]; rfl

/-- Settles O17: the claim of a polling dispatcher takes whatever is pending. -/
theorem claimTakesPendingCommand : Obligations.ClaimTakesPendingCommand := by
  unfold Obligations.ClaimTakesPendingCommand
  exact fun s event init polling => step_claims event init polling rfl

/-! ## The commands that are ignored -/

/-- `NONE` and the invalid ids are stored as `NONE` (R86, R95). -/
theorem storedAs_of_ignored {i : Instr} (wf : i.wf = true) (ignored : i.idByte = 0 ∨ 5 ≤ i.idByte.toNat) :
    Laws.StoredCommand.storedAs i = .none := by
  rw [storedAs_eq_decodeCmd_idByte wf]
  rcases ignored with zero | invalid
  · rw [zero]
    rfl
  · exact Laws.StoredCommand.decodeCmd_of_invalid invalid

/-- What is stored as `NONE` is parsed and does nothing else. -/
theorem exec_of_stored_none {i : Instr} (stored : Laws.StoredCommand.storedAs i = .none) (s : State) :
    exec i s = runIgnored i.lenField s := by
  cases i with
  | receiveRate | sendRate | receiveWaveform | sendWaveform => cases stored
  | _ => rfl

/-- Settles O14: the parse stores `NONE`, and a claim finds nothing pending. -/
theorem ignoredCommandsStartNothing : Obligations.IgnoredCommandsStartNothing := by
  unfold Obligations.IgnoredCommandsStartNothing
  intro i s wf init polling ignored
  refine ⟨publish .none i.lenField s, ?_, rfl, fun event => step_claim_of_nothing_pending event rfl⟩
  rw [exec_publishes i init polling, storedAs_of_ignored wf ignored]

/-- Settles O16: an ignored instruction does nothing or publishes its record. -/
theorem ignoredCommandsFrame : Obligations.IgnoredCommandsFrame := by
  unfold Obligations.IgnoredCommandsFrame
  intro i s t wf ignored answers
  rw [exec_of_stored_none (storedAs_of_ignored wf ignored)] at answers
  rcases runIgnored_cases i.lenField s with nothing | ⟨-, -, publishes⟩
  · cases nothing.symm.trans answers
    exact ⟨rfl, fun _ => rfl, fun _ => rfl⟩
  · cases publishes.symm.trans answers
    exact ⟨rfl, fun _ => rfl, fun _ => rfl⟩

/-! ## The rate commands -/

/-- Two payload bytes are the rate integer, low byte first. -/
theorem le16_eq_ofNat (p0 p1 : Byte) : (le16 p0 p1 : BitVec 16) = BitVec.ofNat _ (p0.toNat + 256 * p1.toNat) := by
  rw [← le16_toNat, BitVec.ofNat_toNat, BitVec.setWidth_eq]

/-- The action of RECEIVE_RATE with its payload present (R88). -/
theorem recvRateAction_takes {s : State} {p0 p1 : Byte} {rest : List Byte} (bytes : s.rxfifo = p0 :: p1 :: rest) :
    recvRateAction s =
      .next (release (if rateValid (le16 p0 p1) then setRate (le16 p0 p1) (withRx rest s) else withRx rest s)) := by
  simp only [recvRateAction, bytes, popLe_two bytesOf_rateW]

/-- Settles O18: claimed, the command is its action, which takes the two bytes as the rate integer and writes both
registers or neither. -/
theorem receiveRateSetsLengthAndPeriod : Obligations.ReceiveRateSetsLengthAndPeriod := by
  unfold Obligations.ReceiveRateSetsLengthAndPeriod
  intro len s init claimed
  have acts : exec (.receiveRate len) s = recvRateAction s :=
    runCommand_claimed (c := .receiveRate) nofun len _ init claimed
  refine ⟨fun p0 p1 rest n bytes value => ?_, fun short => acts.trans (recvRateAction_waits short)⟩
  have number : (le16 p0 p1 : Rate).toNat = n := (le16_toNat p0 p1).trans value.symm
  have valid : rateValid (le16 p0 p1) = true ↔ 1 ≤ n ∧ n ≤ 100 := by rw [rateValid_iff, number, captureCapacity_eq]
  rw [acts, recvRateAction_takes bytes]
  by_cases inRange : 1 ≤ n ∧ n ≤ 100
  · rw [if_pos (valid.2 inRange), if_pos inRange, if_pos inRange, setRate, number, le16_eq_ofNat, ← value]
    rfl
  · rw [if_neg (mt valid.1 inRange), if_neg inRange, if_neg inRange]
    rfl

/-- Settles O19: claimed, the command is its action, and the active length has two bytes. -/
theorem sendRateAnswersActiveLength : Obligations.SendRateAnswersActiveLength := by
  unfold Obligations.SendRateAnswersActiveLength
  intro len s init claimed
  obtain ⟨b0, b1, bytes, value⟩ := toLe_two s.actlen
  refine ⟨b0, b1, value, ?_⟩
  calc exec (.sendRate len) s
      = sendRateAction s := runCommand_claimed (c := .sendRate) nofun len _ init claimed
    _ = _ := by rw [sendRateAction, txEmit, bytes, release]

/-- A command's step that answers has done nothing, has parsed, or is the action of the claimed command. -/
theorem runCommand_eq_next {c : Cmd} {len : Len} {action : State → Answer} {s t : State}
    (answers : runCommand c len action s = .next t) :
    t = s ∨ t = publish c len s ∨ (s.dispCmd = c ∧ action s = .next t) := by
  rcases runCommand_cases c len action s with ⟨-, runs⟩ | ⟨-, -, runs⟩ | ⟨-, -, claimed, runs⟩ | ⟨-, -, -, runs⟩ <;>
    rw [runs] at answers
  · cases answers
    exact .inl rfl
  · cases answers
    exact .inr (.inl rfl)
  · exact .inr (.inr ⟨claimed, answers⟩)
  · cases answers
    exact .inl rfl

/-- The action of RECEIVE_RATE writes FIFO, length, period and the registers of the release. -/
theorem recvRateAction_frame {s t : State} (answers : recvRateAction s = .next t) :
    t = { s with
      pendCmd := t.pendCmd, rxstat := t.rxstat, dispCmd := t.dispCmd, xferIdx := t.xferIdx
      actlen := t.actlen, acqPrd := t.acqPrd, rxfifo := t.rxfifo, acks := t.acks } := by
  rcases recvRateAction_cases s with ⟨-, runs⟩ | ⟨_, _, _, -, ⟨-, runs⟩ | ⟨-, runs⟩⟩ <;>
    cases runs.symm.trans answers <;> rfl

/-- Settles O20: each of the two does nothing, parses, or takes its action, whose writes are listed. -/
theorem rateCommandsFrame : Obligations.RateCommandsFrame := by
  unfold Obligations.RateCommandsFrame
  rintro _ len s t (rfl | rfl) answers
  · rcases runCommand_eq_next (show runCommand .receiveRate len recvRateAction s = .next t from answers) with
      rfl | rfl | ⟨-, acts⟩
    · exact ⟨rfl, fun _ => rfl, nofun, fun _ => rfl, fun _ => rfl⟩
    · exact ⟨rfl, fun _ => rfl, nofun, fun _ => rfl, fun _ => rfl⟩
    · rw [recvRateAction_frame acts]
      exact ⟨rfl, fun _ => rfl, nofun, fun _ => rfl, fun _ => rfl⟩
  · rcases runCommand_eq_next (show runCommand .sendRate len sendRateAction s = .next t from answers) with
      rfl | rfl | ⟨-, acts⟩
    · exact ⟨rfl, nofun, fun _ => ⟨rfl, rfl, rfl⟩, fun _ => rfl, fun _ => rfl⟩
    · exact ⟨rfl, nofun, fun _ => ⟨rfl, rfl, rfl⟩, fun _ => rfl, fun _ => rfl⟩
    · cases acts
      exact ⟨rfl, nofun, fun _ => ⟨rfl, rfl, rfl⟩, fun _ => rfl, fun _ => rfl⟩

/-! ## The waveform commands -/

theorem advanceXfer_of_last {last : Nat} {s : State} (isLast : s.xferIdx.toNat = last) :
    advanceXfer last s = release s := if_pos isLast

theorem advanceXfer_of_not_last {last : Nat} {s : State} (notLast : s.xferIdx.toNat ≠ last) :
    advanceXfer last s = nextXfer s := if_neg notLast

/-- A bulk step writes the index and, after the last sample, the registers of the release (R92, R94). -/
theorem advanceXfer_eq (last : Nat) (s : State) :
    advanceXfer last s =
      if s.xferIdx.toNat = last then
        { s with acks := s.acks ++ [.rxStatus], rxstat := false, pendCmd := .none, dispCmd := .none, xferIdx := 0 }
      else { s with xferIdx := BitVec.ofNat _ (s.xferIdx.toNat + 1) } := by
  have next : s.xferIdx + 1 = BitVec.ofNat _ (s.xferIdx.toNat + 1) := by
    rw [BitVec.ofNat_add, BitVec.ofNat_toNat, BitVec.setWidth_eq]
    rfl
  rw [advanceXfer, release, nextXfer, next]

@[simp] theorem advanceXfer_tx (last : Nat) (s : State) : (advanceXfer last s).tx = s.tx := by
  rw [advanceXfer_eq]
  split <;> rfl

@[simp] theorem advanceXfer_play (last : Nat) (s : State) : (advanceXfer last s).play = s.play := by
  rw [advanceXfer_eq]
  split <;> rfl

@[simp] theorem playSlot_advanceXfer (last : Nat) (s : State) (a : Nat) :
    playSlot (advanceXfer last s) a = playSlot s a := by
  rw [advanceXfer_eq]
  split <;> rfl

/-- The action of RECEIVE_WAVEFORM with its payload present and the index inside `PLAY` (R92). -/
theorem recvWaveAction_stores {s : State} {p0 p1 : Byte} {rest : List Byte} (bytes : s.rxfifo = p0 :: p1 :: rest)
    (inside : s.xferIdx.toNat < Config.playbackCapacity) :
    recvWaveAction s = .next (advanceXfer (Config.playbackCapacity - 1)
      { s with rxfifo := rest, play := Memory.write s.play s.xferIdx.toNat (le16 p0 p1) }) := by
  rcases recvWaveAction_cases s with ⟨short, -⟩ | ⟨_, _, _, taken, ⟨-, stores⟩ | ⟨outside, -⟩⟩
  · simp [bytes] at short
  · cases bytes.symm.trans taken
    exact stores
  · exact absurd inside (Nat.not_lt_of_le outside)

/-- The action of SEND_WAVEFORM with the index inside `CAP` (R94). -/
theorem sendWaveAction_sends {s : State} (inside : s.xferIdx.toNat < Config.captureCapacity) :
    sendWaveAction s =
      .next (advanceXfer (Config.captureCapacity - 1) (txEmit (capSlot s s.xferIdx.toNat) s)) := by
  rcases sendWaveAction_cases s with ⟨-, sends⟩ | ⟨outside, -⟩
  · exact sends
  · exact absurd inside (Nat.not_lt_of_le outside)

/-- Settles O24: claimed, the command is its action, which writes the one slot and ends the bulk step. -/
theorem receiveWaveformStoresSample : Obligations.ReceiveWaveformStoresSample := by
  unfold Obligations.ReceiveWaveformStoresSample
  intro len s init claimed inside
  have acts : exec (.receiveWaveform len) s = recvWaveAction s :=
    runCommand_claimed (c := .receiveWaveform) nofun len _ init claimed
  refine ⟨fun p0 p1 rest bytes => ⟨_, acts.trans (recvWaveAction_stores bytes inside), ?_, fun a other => ?_, ?_⟩,
    fun short => acts.trans (recvWaveAction_waits short)⟩
  · rw [playSlot_advanceXfer, playSlot, memory_read_write_same, le16_toNat]
  · rw [playSlot_advanceXfer]
    exact memory_read_write_other _ _ _ other
  · rw [advanceXfer_play]
    exact advanceXfer_eq _ _

/-- Settles O25: claimed, the command is its action, and the slot's sample has two bytes. -/
theorem sendWaveformEmitsSample : Obligations.SendWaveformEmitsSample := by
  unfold Obligations.SendWaveformEmitsSample
  intro len s init claimed inside
  obtain ⟨b0, b1, bytes, value⟩ := toLe_two (capSlot s s.xferIdx.toNat)
  refine ⟨b0, b1, value, ?_⟩
  calc exec (.sendWaveform len) s
      = sendWaveAction s := runCommand_claimed (c := .sendWaveform) nofun len _ init claimed
    _ = .next (advanceXfer 99 (txEmit (capSlot s s.xferIdx.toNat) s)) := sendWaveAction_sends inside
    _ = _ := by
      rw [txEmit, bytes]
      exact congrArg Host.Outcome.next (advanceXfer_eq _ _)

/-- The action of RECEIVE_WAVEFORM writes FIFO, index, one slot of `PLAY` and the registers of the release. -/
theorem recvWaveAction_frame {s t : State} (answers : recvWaveAction s = .next t) :
    t = { s with
      pendCmd := t.pendCmd, rxstat := t.rxstat, dispCmd := t.dispCmd, xferIdx := t.xferIdx
      play := t.play, rxfifo := t.rxfifo, acks := t.acks } ∧
    ∀ a, a ≠ s.xferIdx.toNat → playSlot t a = playSlot s a := by
  rcases recvWaveAction_cases s with ⟨-, runs⟩ | ⟨_, _, _, -, ⟨-, runs⟩ | ⟨-, runs⟩⟩ <;>
    cases runs.symm.trans answers
  · exact ⟨rfl, fun _ _ => rfl⟩
  · refine ⟨?_, fun a other => ?_⟩
    · rw [advanceXfer_eq]
      split <;> rfl
    · rw [playSlot_advanceXfer]
      exact memory_read_write_other _ _ _ other

/-- The action of SEND_WAVEFORM writes `TX`, index and the registers of the release. -/
theorem sendWaveAction_frame {s t : State} (answers : sendWaveAction s = .next t) :
    t = { s with
      pendCmd := t.pendCmd, rxstat := t.rxstat, dispCmd := t.dispCmd, xferIdx := t.xferIdx
      tx := t.tx, acks := t.acks } := by
  rcases sendWaveAction_cases s with ⟨-, sends⟩ | ⟨-, faults⟩
  · cases sends.symm.trans answers
    rw [advanceXfer_eq]
    split <;> rfl
  · cases faults.symm.trans answers

/-- Settles O26: each of the two does nothing, parses, or takes its action, whose writes are listed. -/
theorem waveformCommandsFrame : Obligations.WaveformCommandsFrame := by
  unfold Obligations.WaveformCommandsFrame
  rintro _ len s t (rfl | rfl) answers
  · rcases runCommand_eq_next (show runCommand .receiveWaveform len recvWaveAction s = .next t from answers) with
      rfl | rfl | ⟨claimed, acts⟩
    · exact ⟨rfl, fun _ => rfl, nofun, fun _ => rfl, fun _ _ => rfl⟩
    · exact ⟨rfl, fun _ => rfl, nofun, fun _ => rfl, fun _ _ => rfl⟩
    · obtain ⟨frame, otherSlots⟩ := recvWaveAction_frame acts
      have slots (a : Nat) (untouched : a ≠ s.xferIdx.toNat ∨ s.dispCmd ≠ .receiveWaveform) :
          playSlot t a = playSlot s a := otherSlots a (untouched.resolve_right (not_not_intro claimed))
      refine ⟨?_, fun _ => ?_, nofun, fun a => ?_, slots⟩ <;> rw [frame]
      rfl
  · rcases runCommand_eq_next (show runCommand .sendWaveform len sendWaveAction s = .next t from answers) with
      rfl | rfl | ⟨-, acts⟩
    · exact ⟨rfl, nofun, fun _ => ⟨rfl, fun _ => rfl⟩, fun _ => rfl, fun _ _ => rfl⟩
    · exact ⟨rfl, nofun, fun _ => ⟨rfl, fun _ => rfl⟩, fun _ => rfl, fun _ _ => rfl⟩
    · rw [sendWaveAction_frame acts]
      exact ⟨rfl, nofun, fun _ => ⟨rfl, fun _ => rfl⟩, fun _ => rfl, fun _ _ => rfl⟩

/-! ## Rules of the whole dispatcher -/

@[simp] theorem hostPush_tx (b : Byte) (s : State) : (hostPush b s).tx = s.tx := by rw [hostPush, rxArrive_eq]

@[simp] theorem clockEdge_tx (s : State) : (clockEdge s).tx = s.tx := by rw [clockEdge_eq]

/-- One value on the wire. -/
theorem wireBytes_singleton {w : Nat} (v : BitVec w) : wireBytes [v] = toLe v := List.flatMap_singleton ..

/-- Settles O31, by the inversion of the step: two of its cases send, each the bytes of one value. -/
theorem onlyTheTwoAnswersAreTransmitted : Obligations.OnlyTheTwoAnswersAreTransmitted := by
  unfold Obligations.OnlyTheTwoAnswersAreTransmitted
  intro s t stepped noReset
  simp only [wireBytes_singleton]
  cases step_result stepped with
  | rateSent event _ busy => exact .inr (.inl ⟨event, busy, rfl⟩)
  | sampleSent event _ busy => exact .inr (.inr ⟨event, busy, advanceXfer_tx _ _⟩)
  | sampleStored => exact .inl (advanceXfer_tx _ _)
  | push b => exact .inl (hostPush_tx b _)
  | edge => exact .inl (clockEdge_tx _)
  | wasReset event => exact absurd event noReset
  | _ => exact .inl rfl

/-- Settles O52: in each of the seven cases a guard fails, and the event is no byte of the host. -/
theorem unrequestedUnclaimedAndRepeatedEventsChangeNothing :
    Obligations.UnrequestedUnclaimedAndRepeatedEventsChangeNothing := by
  unfold Obligations.UnrequestedUnclaimedAndRepeatedEventsChangeNothing
  intro s unmet
  have idle {e : Event} (event : nextEvent s = e) (disabled : ¬ e.enabled s = true) (noPush : ∀ b, e ≠ .hostPush b) :
      step s = .next s.advance :=
    step_eq_advance_of_not_enabled (by rwa [event, ← Bool.not_eq_true]) (by rwa [event])
  rcases unmet with ⟨⟨x, event⟩, unrequested⟩ | ⟨event, unrequested⟩ | ⟨event, unclaimed⟩ | ⟨event, unclaimed⟩ |
    ⟨event, unclaimed⟩ | ⟨event, unclaimed⟩ | ⟨event, started⟩
  · exact idle event (by simp [Event.enabled, unrequested]) nofun
  · exact idle event (by simp [Event.enabled, unrequested]) nofun
  · exact idle event (by simp [execRecvRate_enabled_iff, unclaimed]) nofun
  · exact idle event (by simp [execSendRate_enabled_iff, unclaimed]) nofun
  · exact idle event (by simp [execRecvWave_enabled_iff, unclaimed]) nofun
  · exact idle event (by simp [execSendWave_enabled_iff, unclaimed]) nofun
  · exact idle event (by simp [Event.enabled, started]) nofun

/-! ## A published command is claimed once -/

/-- A bulk step that ends its command is the last one. -/
theorem advanceXfer_eq_release_of_ended {last : Nat} {s : State} (busy : s.dispCmd ≠ .none)
    (ended : (advanceXfer last s).dispCmd = .none) : advanceXfer last s = release s := by
  rcases advanceXfer_cases last s with ⟨-, released⟩ | ⟨-, moved⟩
  · exact released
  · rw [moved] at ended
    exact absurd ended busy

/-- An instruction that ends the claimed command releases it (R96). -/
theorem exec_ends_with_release {i : Instr} {s t : State} (answers : exec i s = .next t) (busy : s.dispCmd ≠ .none)
    (ended : t.dispCmd = .none) : ∃ u, t = release u := by
  rcases exec_cases i s with nothing | ⟨-, polling, -⟩ | ⟨-, -, runs⟩ | ⟨-, -, runs⟩ | ⟨-, -, runs⟩ | ⟨-, -, runs⟩
  · cases nothing.symm.trans answers
    exact absurd ended busy
  · exact absurd polling busy
  · rcases recvRateAction_cases s with ⟨-, waits⟩ | ⟨_, _, _, -, ⟨-, sets⟩ | ⟨-, ignores⟩⟩
    · cases (runs.trans waits).symm.trans answers
      exact absurd ended busy
    · cases (runs.trans sets).symm.trans answers
      exact ⟨_, rfl⟩
    · cases (runs.trans ignores).symm.trans answers
      exact ⟨_, rfl⟩
  · cases runs.symm.trans answers
    exact ⟨_, rfl⟩
  · rcases recvWaveAction_cases s with ⟨-, waits⟩ | ⟨_, _, _, -, ⟨-, stores⟩ | ⟨-, faults⟩⟩
    · cases (runs.trans waits).symm.trans answers
      exact absurd ended busy
    · cases (runs.trans stores).symm.trans answers
      exact ⟨_, advanceXfer_eq_release_of_ended busy ended⟩
    · cases (runs.trans faults).symm.trans answers
  · rcases sendWaveAction_cases s with ⟨-, sends⟩ | ⟨-, faults⟩
    · cases (runs.trans sends).symm.trans answers
      exact ⟨_, advanceXfer_eq_release_of_ended busy ended⟩
    · cases (runs.trans faults).symm.trans answers

/-- The command `c` is pending while the dispatcher polls, after start-up. -/
def AwaitsClaim (c : Cmd) (s : State) : Prop := s.initDone = true ∧ s.dispCmd = .none ∧ s.pendCmd = c

section awaitsClaim

variable {c : Cmd} {s t : State}

theorem claim_enabled_of_awaitsClaim (awaits : AwaitsClaim c s) : Event.claim.enabled s = true := by
  obtain ⟨init, polling, -⟩ := awaits
  exact (claim_enabled_iff s).2 ⟨init, polling⟩

/-- The claim takes the command that waits for it. -/
theorem dispCmd_of_claim_performed (awaits : AwaitsClaim c s) (performed : perform .claim s = .next t) :
    t.dispCmd = c := by
  rw [perform_enabled (claim_enabled_of_awaitsClaim awaits)] at performed
  obtain ⟨-, polling, pending⟩ := awaits
  cases performed
  rw [claim_of_polling polling]
  exact pending

/-- But for a claim, a parse and a reset, no event takes a pending command away. -/
theorem awaitsClaim_of_performed {e : Event} (awaits : AwaitsClaim c s) (performed : perform e s = .next t)
    (noReset : e ≠ .reset) (noClaim : e ≠ .claim) (noParse : e = .rxHeader → ¬ e.enabled s = true) :
    AwaitsClaim c t := by
  have ⟨_, polling, _⟩ := awaits
  cases enabled : e.enabled s with
  | false =>
    rw [perform_notEnabled enabled] at performed
    split at performed <;> cases performed
    exact awaits
  | true =>
    rw [perform_enabled enabled] at performed
    cases e with
    | reset => exact absurd rfl noReset
    | claim => exact absurd rfl noClaim
    | rxHeader => exact absurd enabled (noParse rfl)
    | execRecvRate => simp [execRecvRate_enabled_iff, polling] at enabled
    | execSendRate => simp [execSendRate_enabled_iff, polling] at enabled
    | execRecvWave => simp [execRecvWave_enabled_iff, polling] at enabled
    | execSendWave => simp [execSendWave_enabled_iff, polling] at enabled
    | hostPush b =>
      cases performed
      rw [hostPush, rxArrive_eq]
      exact awaits
    | acqTick x =>
      rcases acqTick_cases x s with ⟨-, -, takes⟩ | ⟨-, -, faults⟩ | ⟨-, refuses⟩
      · cases takes.symm.trans performed
        exact awaits
      · cases faults.symm.trans performed
      · cases refuses.symm.trans performed
    | playTick =>
      rcases playTick_cases s with ⟨-, ⟨_, -, plays⟩ | ⟨-, playsFree⟩⟩ | ⟨-, faults⟩
      · cases plays.symm.trans performed
        exact awaits
      · cases playsFree.symm.trans performed
        exact awaits
      · cases faults.symm.trans performed
    | clockEdge =>
      cases performed
      rw [clockEdge_eq]
      exact awaits
    | gainDrive =>
      cases performed
      exact awaits
    | initDone =>
      cases performed
      exact ⟨rfl, awaits.2⟩

/-- In a paced run without reset a command that is pending while the dispatcher polls stays so up to its claim. -/
theorem awaitsClaim_until_claim {schedule : Nat → Event} {r : Nat → State} {n : Nat} (run : IsRun schedule r)
    (paced : Paced schedule r) (noReset : ∀ k, schedule k ≠ .reset) (command : c ≠ .none)
    (awaits : AwaitsClaim c (r n)) {m : Nat} (le : n ≤ m) :
    (∀ k, n ≤ k → k < m → schedule k ≠ .claim) → AwaitsClaim c (r m) := by
  induction m, le using Nat.le_induction with
  | base => exact fun _ => awaits
  | succ m le ih =>
    intro unclaimed
    have before := ih fun k from_n below => unclaimed k from_n (Nat.lt_succ_of_lt below)
    refine awaitsClaim_of_performed before (run m) (noReset m) (unclaimed m le (Nat.lt_succ_self m)) ?_
    intro parse enabled
    obtain ⟨-, -, pending⟩ := before
    exact command (pending.symm.trans (paced m parse (parse ▸ enabled)))

/-- In a paced and weakly fair run without reset it is claimed: were it not, the claim would stay enabled for ever. -/
theorem claim_follows {schedule : Nat → Event} {r : Nat → State} {n : Nat} (run : IsRun schedule r)
    (fair : WeaklyFair schedule r) (paced : Paced schedule r) (noReset : ∀ k, schedule k ≠ .reset)
    (command : c ≠ .none) (awaits : AwaitsClaim c (r n)) : ∃ k, n ≤ k ∧ schedule k = .claim := by
  by_contra never
  have unclaimed : ∀ k, n ≤ k → schedule k ≠ .claim := fun k le event => never ⟨k, le, event⟩
  refine never (fair .claim n fun m le => ⟨.claim, rfl, claim_enabled_of_awaitsClaim (c := c) ?_⟩)
  exact awaitsClaim_until_claim run paced noReset command awaits le fun k from_n _ => unclaimed k from_n

end awaitsClaim

/-- Settles O30: a command ends in a release, which leaves nothing pending; a claim's guard asks for a polling
dispatcher; and a pending command waits up to the first claim, which fairness provides. -/
theorem releasedCommandNotClaimedAgain : Obligations.ReleasedCommandNotClaimedAgain := by
  unfold Obligations.ReleasedCommandNotClaimedAgain
  refine ⟨fun i s t answers busy ended => ?_, fun s event busy => ?_,
    fun schedule r n run fair paced noReset init polling command => ?_⟩
  · obtain ⟨u, rfl⟩ := exec_ends_with_release answers busy ended
    exact ⟨rfl, if_pos rfl⟩
  · refine step_eq_advance_of_not_enabled ?_ (by simp [event])
    rw [event, Bool.eq_false_iff, ne_eq, claim_enabled_iff]
    exact fun ⟨_, polling⟩ => busy polling
  · have awaits : AwaitsClaim (r n).pendCmd (r n) := ⟨init, polling, rfl⟩
    have claimed := claim_follows run fair paced noReset command awaits
    obtain ⟨le, event⟩ := Nat.find_spec claimed
    have atClaim := awaitsClaim_until_claim run paced noReset command awaits le
      fun k from_n below event => Nat.find_min claimed below ⟨from_n, event⟩
    have performed := run (Nat.find claimed)
    rw [event] at performed
    exact ⟨Nat.find claimed, le, event, atClaim.2.1, dispCmd_of_claim_performed atClaim performed⟩

/-! ## Runs, part by part -/

/-- A run is its first step and a run from where that arrives. -/
theorem runFor_of_step {n : Nat} {s t : State} {o : Answer} (stepped : step s = .next t) (rest : runFor n t = o) :
    runFor (n + 1) s = o := (runFor_succ n stepped).trans rest

/-- A run is a first part and a run from where that arrives. -/
theorem runFor_of_part {m n : Nat} {s t : State} {o : Answer} (part : runFor m s = .next t) (rest : runFor n t = o) :
    runFor (m + n) s = o := (runFor_add n part).trans rest

theorem step_pushes {s : State} {b : Byte} (event : nextEvent s = .hostPush b) (init : s.initDone = true)
    (room : s.rxfifo.length < Config.rxFifoDepth) :
    step s = .next { s with rxfifo := s.rxfifo ++ [b], script := s.script.tail, turns := s.turns + 1 } := by
  rw [pushedByteIsQueuedOrOverruns s b event init, if_pos room]

/-- Bytes that find room are queued one after the other. -/
theorem runFor_pushes (bs : List Byte) {s : State} {more : List Event} (init : s.initDone = true)
    (room : s.rxfifo.length + bs.length ≤ Config.rxFifoDepth) (script : s.script = bs.map .hostPush ++ more) :
    runFor bs.length s =
      .next { s with rxfifo := s.rxfifo ++ bs, script := more, turns := s.turns + bs.length } := by
  induction bs generalizing s with
  | nil => simp [← show s.script = more from script]
  | cons b bs ih =>
    rw [List.length_cons] at room
    refine runFor_of_step (step_pushes (nextEvent_of_script script) init (by omega)) ?_
    refine (ih ?_ ?_ ?_).trans ?_
    · exact init
    · rw [List.length_append, List.length_singleton]
      omega
    · exact congrArg List.tail script
    · simp [Nat.add_assoc, Nat.add_comm 1]

/-- An idle block that is sent the header of a command and then parses and claims it (R78, R85). -/
theorem runFor_header {s : State} {b0 b1 b2 : Byte} {c : Cmd} {more : List Event} (init : s.initDone = true)
    (polling : s.dispCmd = .none) (empty : s.rxfifo = [])
    (script : s.script = [b0, b1, b2].map .hostPush ++ ([.rxHeader, .claim] ++ more))
    (stored : decodeCmd b0 = c) (command : c ≠ .none) :
    runFor 5 s = .next { s with
      rxfifo := [], pendCmd := c, pendLen := le16 b1 b2, rxstat := true, dispCmd := c, xferIdx := 0
      acks := s.acks ++ [.rxIrq], script := more, turns := s.turns + 5 } := by
  have pushed := runFor_pushes [b0, b1, b2] init (by simpa [empty] using rxFifoDepth_least) script
  rw [empty] at pushed
  refine runFor_of_part (n := 2) pushed ?_
  refine runFor_of_step (n := 1) (step_parses rfl init polling rfl) ?_
  refine runFor_of_step (n := 0) (step_claims rfl init polling stored) ?_
  simp [command, stored, publish, withRx, State.advance]

/-! ## The rate, set and asked for -/

theorem step_receivesRate {s : State} {p0 p1 : Byte} {rest : List Byte} (event : nextEvent s = .execRecvRate)
    (init : s.initDone = true) (claimed : s.dispCmd = .receiveRate) (bytes : s.rxfifo = p0 :: p1 :: rest)
    (valid : rateValid (le16 p0 p1) = true) :
    step s = .next (release (setRate (le16 p0 p1) (withRx rest s.advance))) := by
  have enabled := (execRecvRate_enabled_iff s).2 ⟨init, claimed, by simp [bytes]⟩
  calc step s = exec (.receiveRate s.pendLen) s.advance := step_eq_exec event enabled rfl
    _ = recvRateAction s.advance :=
        runCommand_claimed (c := .receiveRate) (s := s.advance) nofun _ _ init claimed
    _ = _ := by rw [recvRateAction_takes (s := s.advance) bytes, if_pos valid]

theorem step_sendsRate {s : State} (event : nextEvent s = .execSendRate) (init : s.initDone = true)
    (claimed : s.dispCmd = .sendRate) : step s = .next (release (txEmit s.actlen s.advance)) :=
  (step_eq_exec event ((execSendRate_enabled_iff s).2 ⟨init, claimed⟩) rfl).trans
    (runCommand_claimed (c := .sendRate) (s := s.advance) nofun _ _ init claimed)

/-- Settles O21: the rate is set, the header is sent, parsed and claimed, and the answer is the active length, whose two
bytes are those it was assembled from. -/
theorem rateReadsBackAsSet : Obligations.RateReadsBackAsSet := by
  unfold Obligations.RateReadsBackAsSet
  intro s p0 p1 l0 l1 more init claimed bytes least most script
  have valid : rateValid (le16 p0 p1) = true := (rateValid_iff _).2 (by rw [le16_toNat]; exact ⟨least, most⟩)
  have received := step_receivesRate (nextEvent_of_script script) init claimed bytes valid
  have header := runFor_header (s := release (setRate (le16 p0 p1) (withRx [] s.advance))) (b0 := 2) (b1 := l0)
    (b2 := l1) (c := .sendRate) init rfl rfl (congrArg List.tail script) rfl nofun
  have answered := runFor_of_part (n := 1) header (runFor_of_step (step_sendsRate rfl init rfl) (runFor_zero _))
  refine ⟨_, runFor_of_step received answered, ?_⟩
  exact ⟨congrArg (s.tx ++ ·) (toLe_le16 p0 p1), le16_toNat p0 p1, rfl, rfl, rfl⟩

/-! ## The download -/

theorem step_sendsSample {s : State} (event : nextEvent s = .execSendWave) (init : s.initDone = true)
    (claimed : s.dispCmd = .sendWaveform) (inside : s.xferIdx.toNat < Config.captureCapacity) :
    step s = .next (advanceXfer (Config.captureCapacity - 1) (txEmit (capSlot s s.xferIdx.toNat) s.advance)) := by
  calc step s = exec (.sendWaveform s.pendLen) s.advance :=
        step_eq_exec event ((execSendWave_enabled_iff s).2 ⟨init, claimed⟩) rfl
    _ = sendWaveAction s.advance :=
        runCommand_claimed (c := .sendWaveform) (s := s.advance) nofun _ _ init claimed
    _ = _ := sendWaveAction_sends (s := s.advance) inside

/-- The rest of a download, `n` slots before the last one: the slots from the index on go out in order. -/
theorem runFor_download (n : Nat) {s : State} {more : List Event} (init : s.initDone = true)
    (claimed : s.dispCmd = .sendWaveform) (left : s.xferIdx.toNat + n = 99)
    (script : s.script = List.replicate (n + 1) .execSendWave ++ more) :
    runFor (n + 1) s = .next (release { s with
      tx := s.tx ++ wireBytes ((List.range' s.xferIdx.toNat (n + 1)).map (capSlot s))
      script := more, turns := s.turns + (n + 1) }) := by
  induction n generalizing s with
  | zero =>
    have inside : s.xferIdx.toNat < 100 := by omega
    refine runFor_of_step (step_sendsSample (nextEvent_of_script script) init claimed inside) ?_
    rw [advanceXfer_of_last (by exact left)]
    simp [txEmit, State.advance, script, wireBytes_singleton]
  | succ n ih =>
    have inside : s.xferIdx.toNat < 99 := by omega
    have next (v : Sample) : (nextXfer (txEmit v s.advance)).xferIdx.toNat = s.xferIdx.toNat + 1 :=
      xferIndex_succ_toNat (Nat.lt_trans inside (by decide))
    have sameSlots (v : Sample) : capSlot (nextXfer (txEmit v s.advance)) = capSlot s := rfl
    refine runFor_of_step
      (step_sendsSample (nextEvent_of_script script) init claimed (Nat.lt_trans inside (by decide))) ?_
    rw [advanceXfer_of_not_last (by exact Nat.ne_of_lt inside)]
    refine (ih ?_ ?_ ?_ ?_).trans ?_
    · exact init
    · exact claimed
    · rw [next]
      omega
    · exact congrArg List.tail script
    · rw [next, sameSlots, List.range'_succ (n := n + 1)]
      simp +arith [txEmit, nextXfer, release, State.advance, wireBytes]

/-- Settles O28: the claim, then the 100 slots from slot 0 on. -/
theorem downloadSendsWholeCaptureBuffer : Obligations.DownloadSendsWholeCaptureBuffer := by
  unfold Obligations.DownloadSendsWholeCaptureBuffer
  intro s more init polling pending script
  refine runFor_of_step (step_claims (nextEvent_of_script script) init polling pending) ?_
  refine (runFor_download 99 (more := more) ?_ ?_ ?_ ?_).trans ?_
  · exact init
  · rfl
  · rfl
  · exact congrArg List.tail script
  · rw [List.range_eq_range']
    rfl

/-! ## The upload -/

/-- A memory after samples have been written to the slots from `i` on, one after the other (R92). -/
def storeFrom (m : Memory) : Nat → List Sample → Memory
  | _, [] => m
  | i, x :: xs => storeFrom (Memory.write m i x) (i + 1) xs

theorem memory_read_storeFrom_outside (free : Nat → Sample) (xs : List Sample) {m : Memory} {i a : Nat}
    (outside : a < i ∨ i + xs.length ≤ a) : Memory.read free (storeFrom m i xs) a = Memory.read free m a := by
  induction xs generalizing m i with
  | nil => rfl
  | cons x xs ih =>
    rw [List.length_cons] at outside
    rw [storeFrom, ih (by omega), memory_read_write_other free m x (by omega)]

theorem memory_read_storeFrom_inside (free : Nat → Sample) {xs : List Sample} {m : Memory} {i k : Nat}
    (inside : k < xs.length) : Memory.read free (storeFrom m i xs) (i + k) = xs[k] := by
  induction xs generalizing m i k with
  | nil => exact absurd inside (Nat.not_lt_zero k)
  | cons x xs ih =>
    rw [storeFrom]
    cases k with
    | zero =>
      rw [memory_read_storeFrom_outside free xs (.inl (by omega))]
      exact memory_read_write_same free m i x
    | succ k =>
      rw [show i + (k + 1) = i + 1 + k by omega, ih (Nat.lt_of_succ_lt_succ inside)]
      rfl

theorem step_storesSample {s : State} {x : Sample} (event : nextEvent s = .execRecvWave) (init : s.initDone = true)
    (claimed : s.dispCmd = .receiveWaveform) (bytes : s.rxfifo = toLe x)
    (inside : s.xferIdx.toNat < Config.playbackCapacity) :
    step s = .next (advanceXfer (Config.playbackCapacity - 1)
      { s.advance with rxfifo := [], play := Memory.write s.play s.xferIdx.toNat x }) := by
  obtain ⟨p0, p1, twoBytes, value⟩ := toLe_two x
  have sample : le16 p0 p1 = x := BitVec.eq_of_toNat_eq ((le16_toNat p0 p1).trans value)
  rw [twoBytes] at bytes
  have enabled := (execRecvWave_enabled_iff s).2 ⟨init, claimed, by simp [bytes]⟩
  calc step s = exec (.receiveWaveform s.pendLen) s.advance := step_eq_exec event enabled rfl
    _ = recvWaveAction s.advance :=
        runCommand_claimed (c := .receiveWaveform) (s := s.advance) nofun _ _ init claimed
    _ = _ := (recvWaveAction_stores (s := s.advance) bytes inside).trans (by rw [sample]; rfl)

/-- One sample of an upload: its two bytes are pushed and taken again. -/
theorem runFor_uploadSample {s : State} {x : Sample} {more : List Event} (init : s.initDone = true)
    (claimed : s.dispCmd = .receiveWaveform) (empty : s.rxfifo = [])
    (inside : s.xferIdx.toNat < Config.playbackCapacity)
    (script : s.script = (toLe x).map .hostPush ++ .execRecvWave :: more) :
    runFor 3 s = .next (advanceXfer (Config.playbackCapacity - 1) { s with
      play := Memory.write s.play s.xferIdx.toNat x, script := more, turns := s.turns + 3 }) := by
  have twoBytes : (toLe x).length = 2 := toLe_length x
  have pushed := runFor_pushes (toLe x) init
    (by rw [empty, twoBytes]; exact Nat.le_trans (by decide) rxFifoDepth_least) script
  rw [twoBytes, empty] at pushed
  refine runFor_of_part (n := 1) pushed (runFor_of_step (n := 0) (step_storesSample rfl init claimed rfl inside) ?_)
  simp [State.advance, empty]

/-- The rest of an upload, `xs` being the samples after the next one: they fill the slots from the index on. -/
theorem runFor_upload (xs : List Sample) {x : Sample} {s : State} {more : List Event} (init : s.initDone = true)
    (claimed : s.dispCmd = .receiveWaveform) (empty : s.rxfifo = []) (left : s.xferIdx.toNat + xs.length = 199)
    (script : s.script = (x :: xs).flatMap (fun x => (toLe x).map .hostPush ++ [.execRecvWave]) ++ more) :
    runFor (3 * (xs.length + 1)) s = .next (release { s with
      play := storeFrom s.play s.xferIdx.toNat (x :: xs), script := more
      turns := s.turns + 3 * (xs.length + 1) }) := by
  induction xs generalizing x s with
  | nil =>
    have inside : s.xferIdx.toNat < 200 := by omega
    refine (runFor_uploadSample init claimed empty inside (by simpa using script)).trans ?_
    rw [advanceXfer_of_last (by exact left)]
    rfl
  | cons y ys ih =>
    rw [List.length_cons] at left ⊢
    rw [show 3 * (ys.length + 1 + 1) = 3 + 3 * (ys.length + 1) by omega]
    have inside : s.xferIdx.toNat < 199 := by omega
    have next (m : Memory) (es : List Event) (n : Nat) :
        (nextXfer { s with play := m, script := es, turns := n }).xferIdx.toNat = s.xferIdx.toNat + 1 :=
      xferIndex_succ_toNat (Nat.lt_trans inside (by decide))
    refine runFor_of_part
      (runFor_uploadSample init claimed empty (Nat.lt_trans inside (by decide)) (by simpa using script)) ?_
    rw [advanceXfer_of_not_last (by exact Nat.ne_of_lt inside)]
    refine (ih (x := y) ?_ ?_ ?_ ?_ ?_).trans ?_
    · exact init
    · exact claimed
    · exact empty
    · rw [next]
      omega
    · rfl
    · rw [next]
      simp +arith [nextXfer, release, storeFrom]

/-- Settles O27: the header is claimed, then the 200 samples fill `PLAY` from slot 0 on. -/
theorem uploadFillsPlaybackBuffer : Obligations.UploadFillsPlaybackBuffer := by
  unfold Obligations.UploadFillsPlaybackBuffer
  intro s len w more init polling empty count script
  obtain ⟨x, xs, rfl⟩ := List.exists_cons_of_length_pos (show 0 < w.length by omega)
  rw [List.length_cons] at count
  obtain ⟨b1, b2, header, (length : le16 b1 b2 = len)⟩ := encode_eq (.receiveWaveform len)
  have claimed := runFor_header (s := s) (b0 := 3) (b1 := b1) (b2 := b2) (c := .receiveWaveform)
    (more := (x :: xs).flatMap (fun x => (toLe x).map .hostPush ++ [.execRecvWave]) ++ more) init polling empty
    (by rw [script, uploadSchedule, header]; simp [Instr.idByte]) rfl nofun
  have fillsAll : 0 + xs.length = 199 := by omega
  have filled := runFor_of_part claimed (runFor_upload xs (more := more) init rfl rfl fillsAll rfl)
  rw [show 5 + 3 * (xs.length + 1) = 605 by omega] at filled
  refine ⟨_, filled, fun k hk => ?_, fun k outside => ?_, ?_⟩
  · exact (congrArg _ (Nat.zero_add k).symm).trans (memory_read_storeFrom_inside _ hk)
  · have beyond : 0 + (x :: xs).length ≤ k := by rw [List.length_cons]; omega
    exact memory_read_storeFrom_outside _ _ (.inr beyond)
  · have others : xs.length = 199 := by omega
    simp [release, empty, length, others]

end Sys2Proof.Machine

/-!
# Proofs: the index advance and the two engines (spec 42_circular_buffer.md R100 to R108)

Either tick is said once as an answer and once as a step; the runs of many ticks are inductions over the ticks in the
model without time (43_rate_control.md R121).
-/

namespace Sys2Proof.Machine

/-! ## The index advance -/

/-- Settles O35: the advance is the remainder of the successor. -/
theorem indexAdvanceWraps : Obligations.IndexAdvanceWraps := by
  unfold Obligations.IndexAdvanceWraps
  intro i n positive
  refine ⟨rfl, nextIdx_lt i positive, fun below => Nat.mod_eq_of_lt below, fun last => ?_⟩
  rw [nextIdx, last, Nat.mod_self]

/-- Going `k` further from the next index is going `k + 1` further from the index itself. -/
theorem nextIdx_add_mod (i n k : Nat) : (nextIdx i n + k) % n = (i + (k + 1)) % n := by
  rw [nextIdx, Nat.mod_add_mod, Nat.add_assoc, Nat.add_comm 1 k]

/-! ## The acquisition tick -/

/-- The block after an acquisition tick with the sample `x`: stored at the cursor, then finished (R103). -/
def afterAcq (x : Sample) (s : State) : State :=
  finishAcq { s with cap := Memory.write s.cap s.capIdx.toNat x }

section afterAcq

variable {s : State} (x : Sample)

theorem acqTick_stores (legal : rateValid s.actlen = true) (inside : s.capIdx.toNat < Config.captureCapacity) :
    acqTick x s = .next (afterAcq x s) := by
  rcases acqTick_cases x s with ⟨-, -, stores⟩ | ⟨-, outside, -⟩ | ⟨illegal, -⟩
  · exact stores
  · exact absurd inside (Nat.not_lt_of_le outside)
  · simp [legal] at illegal

theorem step_samples {x : Sample} (event : nextEvent s = .acqTick x) (init : s.initDone = true)
    (requested : s.acqReq = true) (legal : rateValid s.actlen = true)
    (inside : s.capIdx.toNat < Config.captureCapacity) : step s = .next (afterAcq x s.advance) :=
  (step_eq_answer event (by simp [Event.enabled, init, requested]) rfl).trans
    (acqTick_stores (s := s.advance) x legal inside)

theorem capSlot_afterAcq_cursor (s : State) : capSlot (afterAcq x s) s.capIdx.toNat = x := memory_read_write_same ..

theorem capSlot_afterAcq_other {a : Nat} (other : a ≠ s.capIdx.toNat) : capSlot (afterAcq x s) a = capSlot s a :=
  memory_read_write_other _ _ _ other

/-- A legal active length fits the cursor's register, so the cursor holds the whole remainder. -/
theorem afterAcq_capIdx_toNat (legal : rateValid s.actlen = true) :
    (afterAcq x s).capIdx.toNat = nextIdx s.capIdx.toNat s.actlen.toNat := by
  obtain ⟨least, most⟩ := (rateValid_iff _).1 legal
  have below := nextIdx_lt s.capIdx.toNat least
  refine Nat.mod_eq_of_lt (lt_of_lt_of_le below (most.trans ?_))
  decide

end afterAcq

/-- Settles O36: the guard holds and the tick stores; the cursor's register holds the remainder. -/
theorem acqTickStoresThenAdvances : Obligations.AcqTickStoresThenAdvances := by
  unfold Obligations.AcqTickStoresThenAdvances
  intro s x event init requested least most inside
  have legal : rateValid s.actlen = true := (rateValid_iff _).2 ⟨least, most⟩
  exact ⟨_, step_samples event init requested legal inside, capSlot_afterAcq_cursor x s.advance,
    fun a other => capSlot_afterAcq_other (s := s.advance) x other,
    afterAcq_capIdx_toNat (s := s.advance) x legal, rfl⟩

/-- Settles O38: the rate's step sets the length and leaves the cursor, and the tick takes the cursor modulo the new
length. -/
theorem shorteningStrandsOneSample : Obligations.ShorteningStrandsOneSample := by
  unfold Obligations.ShorteningStrandsOneSample
  intro s p0 p1 rest x more n init claimed bytes value positive beyond inside requested script
  have number : (le16 p0 p1 : Rate).toNat = n := (le16_toNat p0 p1).trans value.symm
  have legal : rateValid (le16 p0 p1) = true := (rateValid_iff _).2 (by rw [number, captureCapacity_eq]; omega)
  have shortened := step_receivesRate (nextEvent_of_script script) init claimed bytes legal
  have sampled : step (release (setRate (le16 p0 p1) (withRx rest s.advance))) = .next _ :=
    step_samples (x := x) (nextEvent_of_script (rest := more) (by simp [script])) init requested legal inside
  have cursor := afterAcq_capIdx_toNat (s := release (setRate (le16 p0 p1) (withRx rest s.advance))) x legal
  simp only [release_actlen, setRate_actlen, number] at cursor
  exact ⟨_, runFor_of_step shortened (runFor_of_step sampled (runFor_zero _)), number, capSlot_afterAcq_cursor ..,
    fun a other => capSlot_afterAcq_other _ other, cursor, cursor ▸ nextIdx_lt _ positive⟩

/-! ## Acquisition over many ticks -/

/-- What `t` is after ticks with the samples `xs` from `s`, at the active length `n` and from the cursor `c` on (R104). -/
structure Captured (n c : Nat) (xs : List Sample) (s t : State) : Prop where
  actlen : t.actlen = s.actlen
  cursor : t.capIdx.toNat = (c + xs.length) % n
  last (m : Nat) (hm : m < xs.length) (latest : ∀ k, m < k → k < xs.length → (c + k) % n ≠ (c + m) % n) :
    capSlot t ((c + m) % n) = xs[m]
  others (a : Nat) (notGiven : ∀ k, k < xs.length → (c + k) % n ≠ a) : capSlot t a = capSlot s a

theorem captured_nil {n : Nat} {s : State} (inside : s.capIdx.toNat < n) : Captured n s.capIdx.toNat [] s s where
  actlen := rfl
  cursor := (Nat.mod_eq_of_lt inside).symm
  last _ hm := absurd hm (Nat.not_lt_zero _)
  others _ _ := rfl

/-- One tick before the others: its slot keeps the sample where no later tick comes back to it. -/
theorem captured_cons {n : Nat} {x : Sample} {xs : List Sample} {s t : State} (inside : s.capIdx.toNat < n)
    (later : Captured n (nextIdx s.capIdx.toNat n) xs (afterAcq x s) t) :
    Captured n s.capIdx.toNat (x :: xs) s t where
  actlen := later.actlen
  cursor := later.cursor.trans (nextIdx_add_mod ..)
  last m hm latest := by
    cases m with
    | zero =>
      have untouched := later.others ((s.capIdx.toNat + 0) % n) fun k hk => by
        rw [nextIdx_add_mod]
        exact latest (k + 1) k.succ_pos (Nat.succ_lt_succ hk)
      rw [untouched, Nat.add_zero, Nat.mod_eq_of_lt inside]
      exact capSlot_afterAcq_cursor x s
    | succ m =>
      rw [← nextIdx_add_mod]
      refine later.last m (Nat.lt_of_succ_lt_succ hm) fun k after hk => ?_
      rw [nextIdx_add_mod, nextIdx_add_mod]
      exact latest (k + 1) (Nat.succ_lt_succ after) (Nat.succ_lt_succ hk)
  others a notGiven := by
    refine (later.others a fun k hk => ?_).trans (capSlot_afterAcq_other x ?_)
    · rw [nextIdx_add_mod]
      exact notGiven (k + 1) (Nat.succ_lt_succ hk)
    · have first := notGiven 0 (Nat.succ_pos _)
      rw [Nat.add_zero, Nat.mod_eq_of_lt inside] at first
      exact first.symm

/-- A raise and its tick, in the model without time. -/
theorem serveAcq_cons {s : State} (x : Sample) (xs : List Sample) (init : s.initDone = true)
    (legal : rateValid s.actlen = true) (inside : s.capIdx.toNat < Config.captureCapacity) :
    serveAcq (x :: xs) s = serveAcq xs (afterAcq x s) := by
  have raises : performUntimed .raiseAcq s = .next (raiseAcq s) := performUntimed_enabled init
  have guard : (Event.acqTick x).enabled (raiseAcq s) = true := by simp [Event.enabled, init]
  have serves : performUntimed (.timed (.acqTick x)) (raiseAcq s) = .next (afterAcq x (raiseAcq s)) :=
    (performUntimed_enabled (u := .timed (.acqTick x)) guard).trans
      ((perform_enabled guard).trans (acqTick_stores (s := raiseAcq s) x legal inside))
  exact (runUntimed_cons raises).trans (runUntimed_cons serves)

theorem serveAcq_captures (xs : List Sample) {s : State} {n : Nat} (init : s.initDone = true)
    (length : s.actlen.toNat = n) (most : n ≤ Config.captureCapacity) (inside : s.capIdx.toNat < n) :
    ∃ t, serveAcq xs s = .next t ∧ Captured n s.capIdx.toNat xs s t := by
  induction xs generalizing s with
  | nil => exact ⟨s, rfl, captured_nil inside⟩
  | cons x xs ih =>
    have positive : 1 ≤ n := Nat.one_le_of_lt inside
    have legal : rateValid s.actlen = true := (rateValid_iff _).2 (length ▸ ⟨positive, most⟩)
    have cursor : (afterAcq x s).capIdx.toNat = nextIdx s.capIdx.toNat n := length ▸ afterAcq_capIdx_toNat x legal
    obtain ⟨t, serves, later⟩ := ih (s := afterAcq x s) init length (cursor ▸ nextIdx_lt _ positive)
    rw [cursor] at later
    exact ⟨t, (serveAcq_cons x xs init legal (inside.trans_le most)).trans serves, captured_cons inside later⟩

/-- Different offsets below the modulus lead to different slots. -/
theorem add_mod_ne_add_mod {c m k n : Nat} (after : m < k) (near : k < m + n) : (c + k) % n ≠ (c + m) % n := by
  intro same
  have divides : n ∣ c + k - (c + m) := (Nat.modEq_iff_dvd' (by omega)).1 same.symm
  exact Nat.not_le_of_lt (by omega) (Nat.le_of_dvd (by omega) divides)

/-- Once the buffer has been gone round, the last samples stand from the cursor on, the oldest first (R104). -/
theorem captured_in_order {n c : Nat} {xs : List Sample} {s t : State} (captured : Captured n c xs s t) {k : Nat}
    (hk : k < n) (round : n ≤ xs.length) : capSlot t ((t.capIdx.toNat + k) % n) = xs[xs.length - n + k] := by
  have slot : (t.capIdx.toNat + k) % n = (c + (xs.length - n + k)) % n := by
    rw [captured.cursor, Nat.mod_add_mod, ← Nat.add_mod_right (c + (xs.length - n + k))]
    congr 1
    omega
  rw [slot]
  exact captured.last _ (by omega) fun j after hj => add_mod_ne_add_mod after (by omega)

/-- Settles O37: every tick stores at the cursor and moves it on; the last `n` samples lie in `n` different slots. -/
theorem acquisitionKeepsLastSamples : Obligations.AcquisitionKeepsLastSamples := by
  unfold Obligations.AcquisitionKeepsLastSamples
  rintro s xs n _ init length rfl most inside
  obtain ⟨t, serves, captured⟩ := serveAcq_captures xs init length most inside
  exact ⟨t, serves, captured.actlen, captured.cursor, captured.last, captured.others,
    fun k hk round => captured_in_order captured hk round⟩

/-! ## The playback tick -/

/-- The word a playback tick puts out: the converted product of the cursor's sample, or the next free word where there is
none (R107, R110, U6; log 8). -/
def playedWord (s : State) : Sample :=
  (outConv (gainMul (playSlot s s.playIdx.toNat) s.gain)).getD (Config.nanWord s.nanDraws)

theorem playedWord_eq {s : State} {z : Sample}
    (word : outConv (gainMul (playSlot s s.playIdx.toNat) s.gain) = some z) : playedWord s = z := by
  rw [playedWord, word, Option.getD_some]

/-- The tick with either word; only the count of draws tells the two apart. -/
theorem playTick_plays {s : State} (inside : s.playIdx.toNat < Config.playbackCapacity) :
    ∃ draws, playTick s = .next (finishPlay (playedWord s) { s with nanDraws := draws }) := by
  rcases playTick_cases s with ⟨-, ⟨y, word, plays⟩ | ⟨noWord, plays⟩⟩ | ⟨outside, -⟩
  · exact ⟨s.nanDraws, by rw [plays, playedWord_eq word]⟩
  · exact ⟨s.nanDraws + 1, by rw [plays, playedWord, noWord, Option.getD_none, drawNan]⟩
  · exact absurd inside (Nat.not_lt_of_le outside)

/-- Settles O39: the guard holds and the tick plays. -/
theorem playTickEmitsScaledSample : Obligations.PlayTickEmitsScaledSample := by
  unfold Obligations.PlayTickEmitsScaledSample
  intro s event init requested inside
  obtain ⟨draws, plays⟩ := playTick_plays (s := s.advance) inside
  have steps := (step_eq_answer event (by simp [Event.enabled, init, requested]) rfl).trans plays
  exact ⟨_, playedWord s.advance, steps, fun z word => playedWord_eq (s := s.advance) word, rfl⟩

/-! ## Playback over many ticks -/

/-- What `t` is after ticks that put out the words `ys`, from `s` on with the cursor at `p` (R108). -/
structure Played (p : Nat) (ys : List Sample) (s t : State) : Prop where
  cursor : t.playIdx.toNat = (p + ys.length) % Config.playbackCapacity
  slots (a : Nat) : playSlot t a = playSlot s a
  gain : t.gain = s.gain
  dac : t.dac = s.dac ++ ys
  words (j : Nat) (hj : j < ys.length) (z : Sample) :
    outConv (gainMul (playSlot s ((p + j) % Config.playbackCapacity)) s.gain) = some z → ys[j] = z

theorem finishPlay_playIdx_toNat (y : Sample) (s : State) :
    (finishPlay y s).playIdx.toNat = nextIdx s.playIdx.toNat Config.playbackCapacity :=
  Nat.mod_eq_of_lt ((nextIdx_lt _ (by decide)).trans (by decide))

theorem played_nil {s : State} (inside : s.playIdx.toNat < Config.playbackCapacity) :
    Played s.playIdx.toNat [] s s where
  cursor := (Nat.mod_eq_of_lt inside).symm
  slots _ := rfl
  gain := rfl
  dac := (List.append_nil _).symm
  words _ hj := absurd hj (Nat.not_lt_zero _)

/-- One tick before the others. -/
theorem played_cons {ys : List Sample} {s t : State} {draws : Nat}
    (inside : s.playIdx.toNat < Config.playbackCapacity)
    (later : Played (nextIdx s.playIdx.toNat Config.playbackCapacity) ys
      (finishPlay (playedWord s) { s with nanDraws := draws }) t) :
    Played s.playIdx.toNat (playedWord s :: ys) s t where
  cursor := later.cursor.trans (nextIdx_add_mod ..)
  slots := later.slots
  gain := later.gain
  dac := later.dac.trans (List.append_assoc ..)
  words j hj z word := by
    cases j with
    | zero =>
      rw [Nat.add_zero, Nat.mod_eq_of_lt inside] at word
      exact playedWord_eq word
    | succ j =>
      rw [← nextIdx_add_mod] at word
      exact later.words j (Nat.lt_of_succ_lt_succ hj) z word

/-- A raise and its tick, in the model without time. -/
theorem servePlay_succ {s : State} (n : Nat) (init : s.initDone = true)
    (inside : s.playIdx.toNat < Config.playbackCapacity) :
    ∃ draws, servePlay (n + 1) s = servePlay n (finishPlay (playedWord s) { s with nanDraws := draws }) := by
  have raises : performUntimed .raisePlay s = .next (raisePlay s) := performUntimed_enabled init
  have guard : Event.playTick.enabled (raisePlay s) = true := by simp [Event.enabled, init]
  obtain ⟨draws, plays⟩ := playTick_plays (s := raisePlay s) inside
  have serves : performUntimed (.timed .playTick) (raisePlay s) = _ :=
    (performUntimed_enabled (u := .timed .playTick) guard).trans ((perform_enabled guard).trans plays)
  exact ⟨draws, (runUntimed_cons raises).trans (runUntimed_cons serves)⟩

theorem servePlay_plays (n : Nat) {s : State} (init : s.initDone = true)
    (inside : s.playIdx.toNat < Config.playbackCapacity) :
    ∃ t ys, servePlay n s = .next t ∧ ys.length = n ∧ Played s.playIdx.toNat ys s t := by
  induction n generalizing s with
  | zero => exact ⟨s, [], rfl, rfl, played_nil inside⟩
  | succ n ih =>
    obtain ⟨draws, tick⟩ := servePlay_succ n init inside
    have cursor := finishPlay_playIdx_toNat (playedWord s) { s with nanDraws := draws }
    obtain ⟨t, ys, serves, count, later⟩ := ih (s := finishPlay (playedWord s) { s with nanDraws := draws }) init
      (cursor ▸ nextIdx_lt _ (by decide))
    rw [cursor] at later
    exact ⟨t, playedWord s :: ys, tick.trans serves, by rw [List.length_cons, count], played_cons inside later⟩

end Sys2Proof.Machine

/-!
# Proofs: the gain product and the output word (spec 42_circular_buffer.md R108 to R110)

Powers of two with integer exponents are compared as rational numbers; the scaled natural numbers of the model and of the
statements are carried over by `scaled_le_iff`.
-/

namespace Sys2Proof.Machine

/-! ## Scaled numbers and the number of bits -/

theorem toNat_sub_of_le {a b : Int} (le : a ≤ b) : (a - b).toNat = 0 := Int.toNat_of_nonpos (sub_nonpos.2 le)

/-- `a * 2 ^ t` and `b * 2 ^ e`, as natural numbers in the smaller of the two units and as rational numbers. -/
theorem scaled_le_iff (a b : Nat) (t e : Int) :
    a * 2 ^ (t - e).toNat ≤ b * 2 ^ (e - t).toNat ↔ (a : ℚ) * 2 ^ t ≤ b * 2 ^ e := by
  rcases le_total t e with below | below <;> obtain ⟨n, rfl⟩ := Int.le.dest below
  · have unit : (0 : ℚ) < 2 ^ t := by positivity
    rw [zpow_add₀ two_ne_zero, zpow_natCast, mul_left_comm, mul_comm (a : ℚ), mul_le_mul_iff_right₀ unit]
    rw [toNat_sub_of_le below, pow_zero, mul_one, add_sub_cancel_left, Int.toNat_natCast]
    norm_cast
  · have unit : (0 : ℚ) < 2 ^ e := by positivity
    rw [zpow_add₀ two_ne_zero, zpow_natCast, mul_left_comm, mul_comm (b : ℚ), mul_le_mul_iff_right₀ unit]
    rw [toNat_sub_of_le below, pow_zero, mul_one, add_sub_cancel_left, Int.toNat_natCast]
    norm_cast

theorem scaled_eq_iff (a b : Nat) (t e : Int) :
    a * 2 ^ (t - e).toNat = b * 2 ^ (e - t).toNat ↔ (a : ℚ) * 2 ^ t = b * 2 ^ e := by
  rw [le_antisymm_iff, le_antisymm_iff, scaled_le_iff, scaled_le_iff]

theorem bitLength_le_iff (m n : Nat) : bitLength m ≤ n ↔ m < 2 ^ n := by
  rcases Nat.eq_zero_or_pos m with rfl | positive
  · simp [bitLength]
  · rw [bitLength, if_neg positive.ne', Nat.succ_le_iff, Nat.log2_lt positive.ne']

theorem lt_two_pow_bitLength (m : Nat) : m < 2 ^ bitLength m := (bitLength_le_iff m _).1 le_rfl

theorem two_pow_le_of_bitLength {m n : Nat} (bits : bitLength m = n + 1) : 2 ^ n ≤ m := by
  rw [← not_lt, ← bitLength_le_iff, bits]
  exact Nat.not_succ_le_self n

/-- The places kept reach from the leading bit down 24 places. -/
theorem lastPlace_upper (m : Nat) (e : Int) :
    m * 2 ^ (e - lastPlace m e).toNat < 2 ^ 24 * 2 ^ (lastPlace m e - e).toNat := by
  rw [← not_le, scaled_le_iff, not_le]
  have bits : (m : ℚ) < 2 ^ bitLength m := by exact_mod_cast lt_two_pow_bitLength m
  have place : bitLength m + e ≤ 24 + lastPlace m e := by unfold lastPlace; omega
  calc (m : ℚ) * 2 ^ e < 2 ^ bitLength m * 2 ^ e := by gcongr
    _ = 2 ^ (bitLength m + e) := by rw [zpow_add₀ two_ne_zero, zpow_natCast]
    _ ≤ 2 ^ (24 + lastPlace m e) := zpow_le_zpow_right₀ one_le_two place
    _ = ((2 ^ 24 : Nat) : ℚ) * 2 ^ lastPlace m e := by rw [zpow_add₀ two_ne_zero]; norm_num

/-- Above the least exponent the leading bit is the highest of the 24 places kept. -/
theorem lastPlace_lower {m : Nat} (nonzero : m ≠ 0) (e : Int) : lastPlace m e = -149 ∨
    2 ^ 23 * 2 ^ (lastPlace m e - e).toNat ≤ m * 2 ^ (e - lastPlace m e).toNat := by
  obtain ⟨n, bits⟩ : ∃ n, bitLength m = n + 1 := ⟨m.log2, if_neg nonzero⟩
  by_cases least : lastPlace m e = -149
  · exact .inl least
  refine .inr ((scaled_le_iff ..).2 ?_)
  have leading : (2 : ℚ) ^ n ≤ m := by exact_mod_cast two_pow_le_of_bitLength bits
  have place : 23 + lastPlace m e = n + e := by unfold lastPlace at least ⊢; omega
  calc ((2 ^ 23 : Nat) : ℚ) * 2 ^ lastPlace m e = 2 ^ (23 + lastPlace m e) := by
        rw [zpow_add₀ two_ne_zero]; norm_num
    _ = 2 ^ n * 2 ^ e := by rw [place, zpow_add₀ two_ne_zero, zpow_natCast]
    _ ≤ m * 2 ^ e := by gcongr

/-! ## Rounding to nearest even -/

/-- `q` is `x / 2 ^ k` rounded to nearest, a tie to the even neighbour. -/
structure NearestEven (x k q : Nat) : Prop where
  lower : 2 * q * 2 ^ k ≤ 2 * x + 2 ^ k
  upper : 2 * x ≤ 2 * q * 2 ^ k + 2 ^ k
  tie : 2 * q * 2 ^ k = 2 * x + 2 ^ k ∨ 2 * x = 2 * q * 2 ^ k + 2 ^ k → q % 2 = 0

theorem nearestEven_divNearestEven (x k : Nat) : NearestEven x k (divNearestEven x k) := by
  have unit : 0 < 2 ^ k := by positivity
  have remainder := Nat.mod_lt x unit
  have division := Nat.div_add_mod' x (2 ^ k)
  unfold divNearestEven
  generalize x / 2 ^ k = q at division ⊢
  generalize x % 2 ^ k = r at remainder division ⊢
  dsimp only
  split <;> constructor <;> simp only [mul_assoc, add_mul, one_mul] <;> omega

/-- Rounded up to `2 ^ 24` is what lies half a unit below it or higher: in the tie the other neighbour is odd. -/
theorem NearestEven.carries_iff {x k q : Nat} (nearest : NearestEven x k q) (most : q ≤ 2 ^ 24) :
    (2 ^ 25 - 1) * 2 ^ k ≤ 2 * x ↔ q = 2 ^ 24 := by
  have unit : 0 < 2 ^ k := by positivity
  obtain ⟨lower, upper, tie⟩ := nearest
  generalize 2 ^ k = u at *
  rw [mul_assoc] at lower upper tie
  constructor
  · intro above
    by_contra notCarried
    have capped := Nat.mul_le_mul_right u (show q ≤ 2 ^ 24 - 1 by omega)
    have tied : q * u = (2 ^ 24 - 1) * u := by omega
    have odd : q = 2 ^ 24 - 1 := Nat.eq_of_mul_eq_mul_right unit tied
    have even := tie (.inr (by omega))
    omega
  · rintro rfl
    omega

theorem divNearestEven_of_dvd {x k : Nat} (divides : 2 ^ k ∣ x) : divNearestEven x k = x / 2 ^ k := by
  have unit : 0 < 2 ^ k := by positivity
  rw [divNearestEven, Nat.mod_eq_zero_of_dvd divides, if_neg (by omega)]

/-- Rounding a number of at least `b` units gives at least `b`. -/
theorem le_divNearestEven {b x k : Nat} (least : b * 2 ^ k ≤ x) : b ≤ divNearestEven x k := by
  have floor : b ≤ x / 2 ^ k := (Nat.le_div_iff_mul_le (by positivity)).2 least
  unfold divNearestEven
  dsimp only
  split <;> omega

/-- The significand of `v * 2 ^ e` at the last place `t`, rounded where places are lost. -/
def significandAt (v : Nat) (e t : Int) : Nat :=
  if t ≤ e then v * 2 ^ (e - t).toNat else divNearestEven v (t - e).toNat

theorem significandAt_of_le {v : Nat} {e t : Int} (kept : t ≤ e) : significandAt v e t = v * 2 ^ (e - t).toNat :=
  if_pos kept

theorem significandAt_of_lt {v : Nat} {e t : Int} (lost : e < t) :
    significandAt v e t = divNearestEven v (t - e).toNat := if_neg lost.not_ge

/-- Where places are lost, the significand is the number itself rounded. -/
theorem nearestEven_of_lost {v : Nat} {e t : Int} (lost : e < t) :
    NearestEven v (t - e).toNat (significandAt v e t) := by
  rw [significandAt_of_lt lost]
  exact nearestEven_divNearestEven ..

/-- In either case the significand is the number in units of its last place, rounded to nearest even. -/
theorem nearestEven_significandAt (v : Nat) (e t : Int) :
    NearestEven (v * 2 ^ (e - t).toNat) (t - e).toNat (significandAt v e t) := by
  rcases le_or_gt t e with kept | lost
  · rw [significandAt_of_le kept, toNat_sub_of_le kept]
    constructor <;> omega
  · rw [toNat_sub_of_le lost.le, pow_zero, mul_one]
    exact nearestEven_of_lost lost

theorem significandAt_lastPlace_le (v : Nat) (e : Int) : significandAt v e (lastPlace v e) ≤ 2 ^ 24 := by
  have nearest := (nearestEven_significandAt v e (lastPlace v e)).lower
  have upper := lastPlace_upper v e
  by_contra! above
  have := Nat.mul_le_mul_right (2 ^ (lastPlace v e - e).toNat) above
  simp only [mul_assoc] at *
  omega

theorem le_significandAt_lastPlace {v : Nat} (nonzero : v ≠ 0) (e : Int) :
    lastPlace v e = -149 ∨ 2 ^ 23 ≤ significandAt v e (lastPlace v e) := by
  refine (lastPlace_lower nonzero e).imp_right fun lower => ?_
  rcases le_or_gt (lastPlace v e) e with kept | lost
  · rw [significandAt_of_le kept]
    rwa [toNat_sub_of_le kept, pow_zero, mul_one] at lower
  · rw [significandAt_of_lt lost]
    rw [toNat_sub_of_le lost.le, pow_zero, mul_one] at lower
    exact le_divNearestEven lower

/-! ## `roundBinary32`, case by case -/

@[simp] theorem roundBinary32_zero (neg : Bool) (e : Int) : roundBinary32 neg 0 e = .finite neg 0 (-149) := if_pos rfl

theorem roundBinary32_of_fits {v : Nat} {e : Int} (neg : Bool) (nonzero : v ≠ 0)
    (fits : significandAt v e (lastPlace v e) ≠ 2 ^ 24) :
    roundBinary32 neg v e =
      if 104 < lastPlace v e then .inf neg else .finite neg (significandAt v e (lastPlace v e)) (lastPlace v e) := by
  unfold significandAt at fits ⊢
  simp only [roundBinary32, nonzero, fits, if_false]

theorem roundBinary32_of_carries {v : Nat} {e : Int} (neg : Bool) (nonzero : v ≠ 0)
    (carries : significandAt v e (lastPlace v e) = 2 ^ 24) :
    roundBinary32 neg v e =
      if 104 < lastPlace v e + 1 then .inf neg else .finite neg (2 ^ 23) (lastPlace v e + 1) := by
  unfold significandAt at carries
  simp only [roundBinary32, nonzero, carries, if_false, if_true]

/-! ## Overflow -/

/-- `v * 2 ^ e` is at least half a unit of the last place above the largest finite number. -/
def Overflows (v : Nat) (e : Int) : Prop := (2 ^ 25 - 1) * 2 ^ (103 - e).toNat ≤ v * 2 ^ (e - 103).toNat

theorem overflows_iff (v : Nat) (e : Int) : Overflows v e ↔ ((2 ^ 25 - 1 : Nat) : ℚ) * 2 ^ (103 : Int) ≤ v * 2 ^ e :=
  scaled_le_iff ..

theorem not_overflows_of_lastPlace_le {v : Nat} {e : Int} (small : lastPlace v e ≤ 103) : ¬ Overflows v e := by
  have upper := lastPlace_upper v e
  rw [← not_le, scaled_le_iff, not_le] at upper
  rw [overflows_iff, not_le]
  calc (v : ℚ) * 2 ^ e < ((2 ^ 24 : Nat) : ℚ) * 2 ^ lastPlace v e := upper
    _ ≤ ((2 ^ 24 : Nat) : ℚ) * 2 ^ (103 : Int) := by gcongr; exact one_le_two
    _ ≤ ((2 ^ 25 - 1 : Nat) : ℚ) * 2 ^ (103 : Int) := by norm_num

theorem overflows_of_lastPlace_ge {v : Nat} {e : Int} (nonzero : v ≠ 0) (large : 105 ≤ lastPlace v e) :
    Overflows v e := by
  have lower := (lastPlace_lower nonzero e).resolve_left (by omega)
  rw [scaled_le_iff] at lower
  rw [overflows_iff]
  calc ((2 ^ 25 - 1 : Nat) : ℚ) * 2 ^ (103 : Int) ≤ ((2 ^ 23 : Nat) : ℚ) * 2 ^ (105 : Int) := by norm_num
    _ ≤ ((2 ^ 23 : Nat) : ℚ) * 2 ^ lastPlace v e := by gcongr; exact one_le_two
    _ ≤ v * 2 ^ e := lower

/-- At the highest last place the number overflows exactly when its significand is rounded up to 25 bits. -/
theorem overflows_iff_carries {v : Nat} {e : Int} (highest : lastPlace v e = 104) :
    Overflows v e ↔ significandAt v e 104 = 2 ^ 24 := by
  have halves : Overflows v e ↔ (2 ^ 25 - 1) * 2 ^ (104 - e).toNat ≤ 2 * v * 2 ^ (e - 104).toNat := by
    rw [overflows_iff, scaled_le_iff, Nat.cast_mul, mul_assoc]
    norm_num
    constructor <;> intro above <;> linarith
  rw [halves, mul_assoc]
  exact (nearestEven_significandAt v e 104).carries_iff (highest ▸ significandAt_lastPlace_le v e)

theorem overflows_iff_of_fits {v : Nat} {e : Int} (nonzero : v ≠ 0)
    (fits : significandAt v e (lastPlace v e) ≠ 2 ^ 24) : Overflows v e ↔ 104 < lastPlace v e := by
  rcases lt_trichotomy (lastPlace v e) 104 with small | highest | large
  · exact iff_of_false (not_overflows_of_lastPlace_le (by omega)) (by omega)
  · rw [highest] at fits
    exact iff_of_false (mt (overflows_iff_carries highest).1 fits) (by omega)
  · exact iff_of_true (overflows_of_lastPlace_ge nonzero large) large

theorem overflows_iff_of_carries {v : Nat} {e : Int} (nonzero : v ≠ 0)
    (carries : significandAt v e (lastPlace v e) = 2 ^ 24) : Overflows v e ↔ 104 < lastPlace v e + 1 := by
  rcases lt_trichotomy (lastPlace v e) 104 with small | highest | large
  · exact iff_of_false (not_overflows_of_lastPlace_le (by omega)) (by omega)
  · rw [highest] at carries
    exact iff_of_true ((overflows_iff_carries highest).2 carries) (by omega)
  · exact iff_of_true (overflows_of_lastPlace_ge nonzero large) (by omega)

/-! ## The rounded number -/

/-- `m * 2 ^ e` is a canonical binary32 number and is `v * 2 ^ ve` rounded to nearest even (R109). -/
def RoundsTo (v : Nat) (ve : Int) (m : Nat) (e : Int) : Prop :=
  m < 2 ^ 24 ∧ -149 ≤ e ∧ e ≤ 104 ∧ (2 ^ 23 ≤ m ∨ e = -149) ∧
    (e ≤ ve → m = v * 2 ^ (ve - e).toNat) ∧
    (ve < e → 2 * m * 2 ^ (e - ve).toNat ≤ 2 * v + 2 ^ (e - ve).toNat ∧
      2 * v ≤ 2 * m * 2 ^ (e - ve).toNat + 2 ^ (e - ve).toNat ∧
      (2 * m * 2 ^ (e - ve).toNat = 2 * v + 2 ^ (e - ve).toNat ∨
        2 * v = 2 * m * 2 ^ (e - ve).toNat + 2 ^ (e - ve).toNat → m % 2 = 0) ∧
      (m = 2 ^ 23 → -149 < e → 4 * m * 2 ^ (e - ve).toNat ≤ 4 * v + 2 ^ (e - ve).toNat))

theorem roundsTo_zero (ve : Int) : RoundsTo 0 ve 0 (-149) := by simp [RoundsTo]

theorem lastPlace_lower_of_lost {v : Nat} {e : Int} (nonzero : v ≠ 0) (lost : e < lastPlace v e)
    (normal : -149 < lastPlace v e) : 2 ^ 23 * 2 ^ (lastPlace v e - e).toNat ≤ v := by
  have lower := (lastPlace_lower nonzero e).resolve_left normal.ne'
  rwa [toNat_sub_of_le lost.le, pow_zero, mul_one] at lower

theorem roundsTo_of_fits {v : Nat} {e : Int} (nonzero : v ≠ 0)
    (fits : significandAt v e (lastPlace v e) ≠ 2 ^ 24) (finite : lastPlace v e ≤ 104) :
    RoundsTo v e (significandAt v e (lastPlace v e)) (lastPlace v e) := by
  refine ⟨lt_of_le_of_ne (significandAt_lastPlace_le v e) fits, le_max_right .., finite,
    (le_significandAt_lastPlace nonzero e).symm, significandAt_of_le, fun lost => ?_⟩
  obtain ⟨lower, upper, tie⟩ := nearestEven_of_lost (v := v) lost
  refine ⟨lower, upper, tie, fun power normal => ?_⟩
  have leading := lastPlace_lower_of_lost nonzero lost normal
  rw [power]
  omega

/-- A significand is rounded up to 25 bits only where places are lost. -/
theorem lost_of_carries {v : Nat} {e : Int} (carries : significandAt v e (lastPlace v e) = 2 ^ 24) :
    e < lastPlace v e := by
  by_contra! kept
  have upper := lastPlace_upper v e
  rw [← significandAt_of_le kept, carries, toNat_sub_of_le kept] at upper
  exact absurd upper (lt_irrefl _)

/-- The rounded-up significand is halved and the last place is one higher. -/
theorem roundsTo_of_carries {v : Nat} {e : Int} (carries : significandAt v e (lastPlace v e) = 2 ^ 24)
    (finite : lastPlace v e + 1 ≤ 104) : RoundsTo v e (2 ^ 23) (lastPlace v e + 1) := by
  have lost := lost_of_carries carries
  have least : -149 ≤ lastPlace v e := le_max_right ..
  have wider : (lastPlace v e + 1 - e).toNat = (lastPlace v e - e).toNat + 1 := by omega
  obtain ⟨lower, upper, -⟩ := nearestEven_of_lost (v := v) lost
  rw [carries] at lower upper
  refine ⟨by decide, by omega, finite, .inl le_rfl, fun kept => absurd kept (by omega), fun _ => ?_⟩
  rw [wider, pow_succ]
  exact ⟨by omega, by omega, fun _ => by decide, fun _ _ => by omega⟩

theorem roundBinary32_of_overflows {v : Nat} {e : Int} (neg : Bool) (overflows : Overflows v e) :
    roundBinary32 neg v e = .inf neg := by
  have nonzero : v ≠ 0 := by
    rintro rfl
    simp [Overflows] at overflows
  by_cases carries : significandAt v e (lastPlace v e) = 2 ^ 24
  · rw [roundBinary32_of_carries neg nonzero carries, if_pos ((overflows_iff_of_carries nonzero carries).1 overflows)]
  · rw [roundBinary32_of_fits neg nonzero carries, if_pos ((overflows_iff_of_fits nonzero carries).1 overflows)]

theorem roundBinary32_of_not_overflows {v : Nat} {e : Int} (neg : Bool) (bounded : ¬ Overflows v e) :
    ∃ m t, roundBinary32 neg v e = .finite neg m t ∧ RoundsTo v e m t := by
  rcases eq_or_ne v 0 with rfl | nonzero
  · exact ⟨0, -149, roundBinary32_zero neg e, roundsTo_zero e⟩
  by_cases carries : significandAt v e (lastPlace v e) = 2 ^ 24
  · rw [overflows_iff_of_carries nonzero carries] at bounded
    exact ⟨_, _, (roundBinary32_of_carries neg nonzero carries).trans (if_neg bounded),
      roundsTo_of_carries carries (not_lt.1 bounded)⟩
  · rw [overflows_iff_of_fits nonzero carries] at bounded
    exact ⟨_, _, (roundBinary32_of_fits neg nonzero carries).trans (if_neg bounded),
      roundsTo_of_fits nonzero carries (not_lt.1 bounded)⟩

/-! ## The gain product -/

theorem gainMul_nan {g : Word} (gain : binary32OfBits g = .nan) (x : Sample) : gainMul x g = .nan := by
  rw [gainMul, gain]

theorem gainMul_inf {g : Word} {gneg : Bool} (gain : binary32OfBits g = .inf gneg) (x : Sample) :
    gainMul x g = if toSigned16 x = 0 then .nan else .inf (gneg != decide (toSigned16 x < 0)) := by
  rw [gainMul, gain]

theorem gainMul_finite {g : Word} {gneg : Bool} {m : Nat} {e : Int} (gain : binary32OfBits g = .finite gneg m e)
    (x : Sample) :
    gainMul x g = roundBinary32 (gneg != decide (toSigned16 x < 0)) ((toSigned16 x).natAbs * m) e := by
  rw [gainMul, gain]

/-- Settles O42: by a finite gain the product of the significands is rounded, to an infinity where it overflows and to
the nearest canonical number elsewhere; the other gains are cases of `GainMul`. -/
theorem gainProductRoundedToNearestEven : Obligations.GainProductRoundedToNearestEven := by
  unfold Obligations.GainProductRoundedToNearestEven
  refine ⟨?_, fun x g gneg gain => gainMul_inf gain x, fun x g gain => gainMul_nan gain x⟩
  rintro x g gneg neg gm ge v gain rfl rfl
  rw [gainMul_finite gain]
  split
  · next overflows => exact roundBinary32_of_overflows _ overflows
  · next bounded => exact roundBinary32_of_not_overflows _ bounded

/-! ## Exact products -/

/-- A number of which no set bit lies below the last place kept is not changed by rounding. -/
theorem binary32Value_roundBinary32_of_dvd {v : Nat} {e : Int} (neg : Bool)
    (exact : 2 ^ (lastPlace v e - e).toNat ∣ v) (finite : lastPlace v e ≤ 104) :
    binary32Value (roundBinary32 neg v e) = some ((if neg then -1 else 1) * (v : ℚ) * 2 ^ e) := by
  rcases eq_or_ne v 0 with rfl | nonzero
  · simp [binary32Value]
  have scaled : significandAt v e (lastPlace v e) * 2 ^ (lastPlace v e - e).toNat =
      v * 2 ^ (e - lastPlace v e).toNat := by
    rcases le_or_gt (lastPlace v e) e with kept | lost
    · rw [significandAt_of_le kept, toNat_sub_of_le kept, pow_zero, mul_one]
    · rw [significandAt_of_lt lost, divNearestEven_of_dvd exact, Nat.div_mul_cancel exact, toNat_sub_of_le lost.le,
        pow_zero, mul_one]
  have fits : significandAt v e (lastPlace v e) ≠ 2 ^ 24 := fun carries =>
    (lastPlace_upper v e).ne' (by rw [← scaled, carries])
  rw [roundBinary32_of_fits neg nonzero fits, if_neg finite.not_gt, binary32Value, mul_assoc, mul_assoc,
    (scaled_eq_iff ..).1 scaled]

theorem signed_natAbs (gneg : Bool) (v : Int) :
    (if gneg != decide (v < 0) then -1 else 1) * (v.natAbs : ℚ) = (if gneg then -1 else 1) * v := by
  rw [Nat.cast_natAbs]
  rcases lt_or_ge v 0 with negative | nonnegative
  · cases gneg <;> simp [negative, abs_of_neg]
  · cases gneg <;> simp [nonnegative.not_gt, abs_of_nonneg nonnegative]

theorem toSigned16_range (x : Sample) : -32768 ≤ toSigned16 x ∧ toSigned16 x ≤ 32767 := by
  rw [toSigned16_eq_toInt]
  exact ⟨BitVec.le_toInt x, Int.le_of_lt_add_one (BitVec.toInt_lt (x := x))⟩

/-- The product by a power of two is exact: a sample has fewer bits than a significand (R109). -/
theorem binary32Value_gainMul_of_power {g : Word} {gneg : Bool} {e : Int}
    (gain : binary32OfBits g = .finite gneg (2 ^ 23) e) (least : -149 ≤ e) (most : e ≤ 80) (x : Sample) :
    binary32Value (gainMul x g) = some ((if gneg then -1 else 1) * (toSigned16 x : ℚ) * 2 ^ (23 + e)) := by
  have bits : bitLength ((toSigned16 x).natAbs * 2 ^ 23) ≤ 40 := by
    rw [bitLength_le_iff]
    have := toSigned16_range x
    omega
  have place : lastPlace ((toSigned16 x).natAbs * 2 ^ 23) e ≤ e + 16 := by unfold lastPlace; omega
  rw [gainMul_finite gain, binary32Value_roundBinary32_of_dvd, Nat.cast_mul, ← mul_assoc, signed_natAbs, mul_assoc,
    zpow_add₀ two_ne_zero]
  · norm_num
  · exact (pow_dvd_pow 2 (by omega)).mul_left _
  · omega

theorem binary32Value_gainMul_of_zero {g : Word} {gneg : Bool} (gain : binary32OfBits g = .finite gneg 0 (-149))
    (x : Sample) : binary32Value (gainMul x g) = some 0 := by
  rw [gainMul_finite gain, mul_zero, roundBinary32_zero, binary32Value]
  simp

/-- Settles O41: four of the gains are powers of two, and two are zeros. -/
theorem exactGainProducts : Obligations.ExactGainProducts := by
  unfold Obligations.ExactGainProducts
  intro x
  refine ⟨?_, binary32Value_gainMul_of_zero (gneg := false) (by decide) x,
    binary32Value_gainMul_of_zero (gneg := true) (by decide) x, ?_, ?_, ?_⟩
  · rw [binary32Value_gainMul_of_power (gneg := false) (e := -23) (by decide) (by decide) (by decide)]
    norm_num
  · rw [binary32Value_gainMul_of_power (gneg := false) (e := -24) (by decide) (by decide) (by decide)]
    norm_num
    ring
  · rw [binary32Value_gainMul_of_power (gneg := true) (e := -23) (by decide) (by decide) (by decide)]
    norm_num
  · rw [binary32Value_gainMul_of_power (gneg := false) (e := -22) (by decide) (by decide) (by decide)]
    norm_num
    ring

/-! ## The output word -/

/-- The magnitude without its fraction is the floor of the magnitude. -/
theorem truncMagnitude_eq_floor (m : Nat) (e : Int) : (truncMagnitude m e : Int) = ⌊(m : ℚ) * 2 ^ e⌋ := by
  unfold truncMagnitude
  split
  · next whole =>
    obtain ⟨n, rfl⟩ := Int.eq_ofNat_of_zero_le whole
    rw [zpow_natCast]
    exact_mod_cast (Int.floor_natCast (R := ℚ) (m * 2 ^ n)).symm
  · next fraction =>
    obtain ⟨n, rfl⟩ : ∃ n : Nat, e = -n := ⟨(-e).toNat, by omega⟩
    rw [zpow_neg, zpow_natCast, ← div_eq_mul_inv, neg_neg, Int.toNat_natCast]
    have := Rat.floor_natCast_div_natCast m (2 ^ n)
    push_cast at this ⊢
    exact this.symm

/-- The word of a number that is not negative (R110). -/
theorem outConv_of_nonneg (m : Nat) (e : Int) : ∃ y, outConv (.finite false m e) = some y ∧
    toSigned16 y = if (32768 : ℚ) ≤ m * 2 ^ e then 32767 else ⌊(m : ℚ) * 2 ^ e⌋ := by
  have nonneg : (0 : Int) ≤ ⌊(m : ℚ) * 2 ^ e⌋ := Int.floor_nonneg.2 (by positivity)
  have saturates : 32767 < ⌊(m : ℚ) * 2 ^ e⌋ ↔ (32768 : ℚ) ≤ m * 2 ^ e := by
    rw [← Int.add_one_le_iff, Int.le_floor]
    norm_num
  refine ⟨_, rfl, ?_⟩
  rw [truncMagnitude_eq_floor]
  simp only [Config.outMax, saturates]
  split
  · exact toSigned16_toBits16 (by decide) (by decide)
  · next inRange =>
    rw [← saturates] at inRange
    exact toSigned16_toBits16 (by omega) (by omega)

/-- The word of a number that is not positive (R110). -/
theorem outConv_of_nonpos (m : Nat) (e : Int) : ∃ y, outConv (.finite true m e) = some y ∧
    toSigned16 y = if -((m : ℚ) * 2 ^ e) ≤ -32769 then -32768 else ⌈-((m : ℚ) * 2 ^ e)⌉ := by
  have nonneg : (0 : Int) ≤ ⌊(m : ℚ) * 2 ^ e⌋ := Int.floor_nonneg.2 (by positivity)
  have saturates : -⌊(m : ℚ) * 2 ^ e⌋ < -32768 ↔ -((m : ℚ) * 2 ^ e) ≤ -32769 := by
    rw [neg_lt_neg_iff, neg_le_neg_iff, ← Int.add_one_le_iff, Int.le_floor]
    norm_num
  refine ⟨_, rfl, ?_⟩
  rw [truncMagnitude_eq_floor, Int.ceil_neg]
  simp only [Config.outMin, saturates]
  split
  · exact toSigned16_toBits16 (by decide) (by decide)
  · next inRange =>
    rw [← saturates] at inRange
    exact toSigned16_toBits16 (by omega) (by omega)

/-- Settles O43: by the sign of the number; a zero with a sign has the word 0 either way. -/
theorem outputSaturatesAndTruncates : Obligations.OutputSaturatesAndTruncates := by
  unfold Obligations.OutputSaturatesAndTruncates
  refine ⟨rfl, fun neg => by cases neg <;> rfl, fun p v value => ?_⟩
  cases p with
  | nan => cases value
  | inf neg => cases value
  | finite neg m e =>
    have nonneg : (0 : ℚ) ≤ m * 2 ^ e := by positivity
    cases neg with
    | false =>
      obtain rfl : (m : ℚ) * 2 ^ e = v := by simpa [binary32Value] using value
      rw [if_neg (show ¬ (m : ℚ) * 2 ^ e ≤ -32769 by linarith), if_pos nonneg]
      exact outConv_of_nonneg m e
    | true =>
      obtain rfl : -((m : ℚ) * 2 ^ e) = v := by simpa [binary32Value] using value
      have signs : (if 0 ≤ -((m : ℚ) * 2 ^ e) then ⌊-((m : ℚ) * 2 ^ e)⌋ else ⌈-((m : ℚ) * 2 ^ e)⌉) =
          ⌈-((m : ℚ) * 2 ^ e)⌉ := by
        split
        · next zero => simp [le_antisymm (neg_nonneg.1 zero) nonneg]
        · rfl
      rw [if_neg (show ¬ 32768 ≤ -((m : ℚ) * 2 ^ e) by linarith), signs]
      exact outConv_of_nonpos m e

/-! ## Playback at gain 1.0 -/

/-- The product by 1.0 is the sample, which is in range and has no fraction (R108). -/
theorem outConv_gainMul_one (x : Sample) : outConv (gainMul x 0x3F800000) = some x := by
  obtain ⟨y, word, value⟩ := outputSaturatesAndTruncates.2.2 _ _ (exactGainProducts x).1
  obtain ⟨least, most⟩ := toSigned16_range x
  have below : ¬ (32768 : ℚ) ≤ toSigned16 x := by norm_cast; omega
  have above : ¬ (toSigned16 x : ℚ) ≤ -32769 := by norm_cast; omega
  rw [if_neg below, if_neg above, Int.floor_intCast, Int.ceil_intCast, ite_self] at value
  rw [word, ← toBits16_toSigned16 y, value, toBits16_toSigned16]

/-- Settles O40: the ticks put out the words in order, and by 1.0 the word is the sample. -/
theorem playbackReproducesBuffer : Obligations.PlaybackReproducesBuffer := by
  unfold Obligations.PlaybackReproducesBuffer
  refine ⟨fun s n init inside => ?_, outConv_gainMul_one⟩
  obtain ⟨t, ys, serves, rfl, played⟩ := servePlay_plays n init inside
  exact ⟨t, ys, serves, played.cursor, played.slots, played.gain, played.dac, rfl, played.words⟩

end Sys2Proof.Machine

/-!
# Proofs: the timers and the rate (spec 43_rate_control.md R112 to R121)

Both timers are one small machine, `Timer`; what it does in many edges is proved once. The model without time reads
neither the counters nor the schedule, so that each of its steps takes states that differ in these to such states again.
-/

namespace Sys2Proof.Machine

/-! ## The period formula -/

/-- The clock is at least 50 times the capacity, so the quotient is at least 1; and it fits a period register (R112). -/
theorem quotient_range {n : Nat} (least : 1 ≤ n) (most : n ≤ 100) :
    1 ≤ Config.clockBaseHz / (50 * n) ∧ Config.clockBaseHz / (50 * n) < 2 ^ 32 :=
  ⟨Nat.div_pos ((Nat.mul_le_mul_left 50 most).trans clockBaseHz_least) (by omega),
    (Nat.div_le_self ..).trans_lt clockBaseHz_most⟩

/-- Settles O45: the quotient is at least 1, and one less than it fits 32 bits. -/
theorem periodFormulaFitsRegister : Obligations.PeriodFormulaFitsRegister := by
  unfold Obligations.PeriodFormulaFitsRegister
  intro n least most
  obtain ⟨positive, fits⟩ := quotient_range least most
  exact ⟨Nat.sub_add_cancel positive, Nat.mod_eq_of_lt ((Nat.sub_le ..).trans_lt fits)⟩

/-! ## One clock edge -/

/-- A counter that is not at zero goes down by one without a wrap. -/
theorem period_sub_one_toNat {c : Period} (running : c ≠ 0) : (c - 1).toNat = c.toNat - 1 := by
  have positive : 0 < c.toNat := Nat.pos_of_ne_zero fun zero => running (BitVec.eq_of_toNat_eq zero)
  exact BitVec.toNat_sub_of_le (BitVec.le_def.2 positive)

theorem period_sub_one {c : Period} (running : c ≠ 0) : c - 1 = BitVec.ofNat _ (c.toNat - 1) := by
  rw [← period_sub_one_toNat running, BitVec.ofNat_toNat, BitVec.setWidth_eq]

/-- Settles O46: the edge is both timers' halves, and a counter that counts down is not at zero. -/
theorem clockEdgeCountsAndReloads : Obligations.ClockEdgeCountsAndReloads := by
  unfold Obligations.ClockEdgeCountsAndReloads
  intro s event init
  have counted (c p : Period) :
      (if c = 0 then p else c - 1) = if c = 0 then p else BitVec.ofNat _ (c.toNat - 1) :=
    ite_congr rfl (fun _ => rfl) period_sub_one
  rw [step_eq_answer event init rfl, clockEdge_eq, counted, counted]
  rfl

/-! ## Many clock edges -/

/-- One of the two timers: its period, its counter and its request (R117). -/
structure Timer where
  prd : Period
  cnt : Period
  req : Bool

/-- One edge of the base clock for one timer (R118). -/
def Timer.edge (t : Timer) : Timer :=
  if t.cnt = 0 then { t with cnt := t.prd, req := true } else { t with cnt := t.cnt - 1 }

theorem Timer.edge_of_zero {t : Timer} (zero : t.cnt = 0) : t.edge = { t with cnt := t.prd, req := true } :=
  if_pos zero

theorem Timer.edge_of_running {t : Timer} (running : t.cnt ≠ 0) : t.edge = { t with cnt := t.cnt - 1 } :=
  if_neg running

theorem Timer.edge_cnt_toNat {t : Timer} (running : t.cnt ≠ 0) : t.edge.cnt.toNat = t.cnt.toNat - 1 := by
  rw [edge_of_running running]
  exact period_sub_one_toNat running

theorem Timer.edge_req {t : Timer} (running : t.cnt ≠ 0) : t.edge.req = t.req := by
  rw [edge_of_running running]

theorem Timer.cnt_ne_zero {t : Timer} {k : Nat} (le : k + 1 ≤ t.cnt.toNat) : t.cnt ≠ 0 := by
  intro zero
  simp [zero] at le

/-- Up to its count a timer counts down and leaves its request alone. -/
theorem Timer.iterate_edge (k : Nat) {t : Timer} (le : k ≤ t.cnt.toNat) :
    (edge^[k] t).cnt.toNat = t.cnt.toNat - k ∧ (edge^[k] t).req = t.req := by
  induction k generalizing t with
  | zero => exact ⟨rfl, rfl⟩
  | succ k ih =>
    have running := cnt_ne_zero le
    have down := edge_cnt_toNat running
    obtain ⟨count, request⟩ := ih (t := t.edge) (by omega)
    rw [Function.iterate_succ_apply]
    exact ⟨by omega, request.trans (edge_req running)⟩

/-- On the edge after that it reloads and raises its request. -/
theorem Timer.iterate_edge_expires {t : Timer} (c : Nat) (count : t.cnt.toNat = c) :
    edge^[c + 1] t = { t with cnt := t.prd, req := true } := by
  induction c generalizing t with
  | zero => exact edge_of_zero (BitVec.eq_of_toNat_eq count)
  | succ c ih =>
    have running := cnt_ne_zero count.ge
    have down := edge_cnt_toNat running
    rw [Function.iterate_succ_apply, ih (t := t.edge) (by omega), edge_of_running running]

/-- The acquisition timer (R117). -/
def acqTimer (s : State) : Timer := ⟨s.acqPrd, s.acqCnt, s.acqReq⟩

/-- The playback timer (R117). -/
def playTimer (s : State) : Timer := ⟨s.playPrd, s.playCnt, s.playReq⟩

theorem acqTimer_clockEdge (s : State) : acqTimer (clockEdge s) = (acqTimer s).edge := by
  rw [clockEdge_eq]
  by_cases zero : s.acqCnt = 0
  · rw [Timer.edge_of_zero (t := acqTimer s) zero]
    simp only [acqTimer, if_pos zero]
  · rw [Timer.edge_of_running (t := acqTimer s) zero]
    simp only [acqTimer, if_neg zero]

theorem playTimer_clockEdge (s : State) : playTimer (clockEdge s) = (playTimer s).edge := by
  rw [clockEdge_eq]
  by_cases zero : s.playCnt = 0
  · rw [Timer.edge_of_zero (t := playTimer s) zero]
    simp only [playTimer, if_pos zero]
  · rw [Timer.edge_of_running (t := playTimer s) zero]
    simp only [playTimer, if_neg zero]

theorem clockEdges_eq_iterate (n : Nat) (s : State) : clockEdges n s = clockEdge^[n] s := by
  induction n generalizing s with
  | zero => rfl
  | succ n ih => exact ih (clockEdge s)

theorem acqTimer_clockEdges (n : Nat) (s : State) : acqTimer (clockEdges n s) = Timer.edge^[n] (acqTimer s) := by
  rw [clockEdges_eq_iterate]
  exact Function.Semiconj.iterate_right acqTimer_clockEdge n s

theorem playTimer_clockEdges (n : Nat) (s : State) : playTimer (clockEdges n s) = Timer.edge^[n] (playTimer s) := by
  rw [clockEdges_eq_iterate]
  exact Function.Semiconj.iterate_right playTimer_clockEdge n s

/-- Settles O47: either timer's registers after edges of the block are its own after as many edges. -/
theorem timerExpiresEveryPeriodPlusOneEdges : Obligations.TimerExpiresEveryPeriodPlusOneEdges := by
  unfold Obligations.TimerExpiresEveryPeriodPlusOneEdges
  intro s
  have acqExpires := (acqTimer_clockEdges _ s).trans (Timer.iterate_edge_expires s.acqCnt.toNat rfl)
  have playExpires := (playTimer_clockEdges _ s).trans (Timer.iterate_edge_expires s.playCnt.toNat rfl)
  refine ⟨fun k le => ?_, congrArg Timer.cnt acqExpires, congrArg Timer.req acqExpires, fun k le => ?_,
    congrArg Timer.cnt playExpires, congrArg Timer.req playExpires⟩
  · have counted := Timer.iterate_edge k (t := acqTimer s) le
    rwa [← acqTimer_clockEdges] at counted
  · have counted := Timer.iterate_edge k (t := playTimer s) le
    rwa [← playTimer_clockEdges] at counted

/-! ## A tick that expires while its request is pending -/

/-- Two service events on one acquisition request run one tick: the second finds no request (log 2). -/
theorem acqRequest_served_once {s : State} {x : Sample} {more : List Event} (init : s.initDone = true)
    (requested : s.acqReq = true) (legal : rateValid s.actlen = true)
    (inside : s.capIdx.toNat < Config.captureCapacity) (script : s.script = [.acqTick x, .acqTick x] ++ more) :
    ∃ t, runFor 2 s = .next t ∧ t.acqReq = false ∧ t.capIdx.toNat = nextIdx s.capIdx.toNat s.actlen.toNat ∧
      t.acks = s.acks ++ [.conv, .acqTmr] := by
  have taken := step_samples (nextEvent_of_script script) init requested legal inside
  have event : nextEvent (afterAcq x s.advance) = .acqTick x := nextEvent_of_script (congrArg List.tail script)
  have idle := unrequestedUnclaimedAndRepeatedEventsChangeNothing _ (.inl ⟨⟨x, event⟩, rfl⟩)
  exact ⟨_, runFor_of_step taken (runFor_of_step idle (runFor_zero _)), rfl,
    afterAcq_capIdx_toNat (s := s.advance) x legal, rfl⟩

/-- Two service events on one playback request run one tick: the second finds no request (log 2). -/
theorem playRequest_served_once {s : State} {more : List Event} (init : s.initDone = true)
    (requested : s.playReq = true) (inside : s.playIdx.toNat < Config.playbackCapacity)
    (script : s.script = [.playTick, .playTick] ++ more) :
    ∃ t, runFor 2 s = .next t ∧ t.playReq = false ∧
      t.playIdx.toNat = nextIdx s.playIdx.toNat Config.playbackCapacity ∧ t.dac.length = s.dac.length + 1 ∧
      t.acks = s.acks ++ [.playTmr] := by
  obtain ⟨t, y, plays, -, played⟩ := playTickEmitsScaledSample s (nextEvent_of_script script) init requested inside
  have event : nextEvent t = .playTick := by
    rw [played]
    exact nextEvent_of_script (congrArg List.tail script)
  have idle := unrequestedUnclaimedAndRepeatedEventsChangeNothing t (.inr (.inl ⟨event, by rw [played]⟩))
  refine ⟨_, runFor_of_step plays (runFor_of_step idle (runFor_zero _)), ?_⟩
  rw [played]
  exact ⟨rfl, finishPlay_playIdx_toNat y s, List.length_append, rfl⟩

/-- Settles O48: the edge leaves the request raised and the rest of the engine alone, and the two services run one
tick. -/
theorem pendingTickAbsorbsTheNext : Obligations.PendingTickAbsorbsTheNext := by
  unfold Obligations.PendingTickAbsorbsTheNext
  constructor
  · intro s x more init requested _ least most inside script
    have edge := clockEdgeCountsAndReloads s (nextEvent_of_script script) init
    rw [show runFor 3 s = _ from runFor_succ 2 edge]
    exact acqRequest_served_once init (by rw [requested, ite_self]) ((rateValid_iff _).2 ⟨least, most⟩) inside
      (congrArg List.tail script)
  · intro s more init requested _ inside script
    have edge := clockEdgeCountsAndReloads s (nextEvent_of_script script) init
    rw [show runFor 3 s = _ from runFor_succ 2 edge]
    exact playRequest_served_once init (by rw [requested, ite_self]) inside (congrArg List.tail script)

/-! ## The length and its period -/

@[simp] theorem advanceXfer_actlen (last : Nat) (s : State) : (advanceXfer last s).actlen = s.actlen := by
  rw [advanceXfer_eq]
  split <;> rfl

@[simp] theorem advanceXfer_acqPrd (last : Nat) (s : State) : (advanceXfer last s).acqPrd = s.acqPrd := by
  rw [advanceXfer_eq]
  split <;> rfl

/-- Settles O49, by the inversion of the step: one of its cases sets the pair, and it writes no other register of either
timer nor the cursor. -/
theorem lengthAndPeriodChangeTogether : Obligations.LengthAndPeriodChangeTogether := by
  unfold Obligations.LengthAndPeriodChangeTogether
  intro s t stepped noReset changed
  cases step_result stepped with
  | rateSet _ _ _ event _ busy => exact ⟨event, busy, rfl, rfl, rfl, rfl, rfl, rfl, rfl⟩
  | push b => simp [hostPush, rxArrive_eq] at changed
  | edge => simp [clockEdge_eq] at changed
  | wasReset event => exact absurd event noReset
  | sampleStored | sampleSent => simp at changed
  | _ => exact absurd changed (not_or.2 ⟨not_not_intro rfl, not_not_intro rfl⟩)

/-! ## The model without time reads neither counters nor schedule -/

/-- What the model without time keeps of an answer. -/
def untimedAnswer : Answer → Answer
  | .next t => .next t.untimed
  | .fault r => .fault r
  | .refused r => .refused r

theorem untimedAnswer_eq_next {o : Answer} {t : State} (same : untimedAnswer o = .next t) :
    ∃ b, o = .next b ∧ b.untimed = t := by
  cases o with
  | next b => exact ⟨b, rfl, Host.Outcome.next.inj same⟩
  | fault | refused => cases same

/-- What the model without time keeps of an answer of `f` depends on what it keeps of the state alone. -/
def Timeless (f : State → Answer) : Prop := ∀ s, untimedAnswer (f s.untimed) = untimedAnswer (f s)

theorem advanceXfer_untimed (last : Nat) (s : State) :
    (advanceXfer last s.untimed).untimed = (advanceXfer last s).untimed := by
  rw [advanceXfer_eq, advanceXfer_eq, apply_ite State.untimed, apply_ite State.untimed]
  rfl

theorem timeless_recvRateAction : Timeless recvRateAction := by
  intro s
  rcases recvRateAction_cases s with ⟨short, waits⟩ | ⟨_, _, _, bytes, ⟨valid, sets⟩ | ⟨invalid, ignores⟩⟩
  · rw [waits, recvRateAction_waits (s := s.untimed) short]
    rfl
  · rw [sets, recvRateAction_takes (s := s.untimed) bytes, if_pos valid]
    rfl
  · rw [ignores, recvRateAction_takes (s := s.untimed) bytes, if_neg (by simp [invalid])]
    rfl

theorem timeless_recvWaveAction : Timeless recvWaveAction := by
  intro s
  rcases recvWaveAction_cases s with ⟨short, waits⟩ | ⟨_, _, _, bytes, ⟨inside, stores⟩ | ⟨outside, faults⟩⟩
  · rw [waits, recvWaveAction_waits (s := s.untimed) short]
    rfl
  · rw [stores, recvWaveAction_stores (s := s.untimed) bytes inside]
    exact congrArg Host.Outcome.next (advanceXfer_untimed _ { s with rxfifo := _, play := _ })
  · rw [faults, recvWaveAction_faults (s := s.untimed) (by simp [State.untimed, bytes]) outside]

theorem timeless_sendWaveAction : Timeless sendWaveAction := by
  intro s
  rcases sendWaveAction_cases s with ⟨inside, sends⟩ | ⟨outside, faults⟩
  · rw [sends, sendWaveAction_sends (s := s.untimed) inside]
    exact congrArg Host.Outcome.next (advanceXfer_untimed _ (txEmit (capSlot s s.xferIdx.toNat) s))
  · rw [faults, sendWaveAction_faults (s := s.untimed) outside]

theorem timeless_acqTick (x : Sample) : Timeless (acqTick x) := by
  intro s
  rcases acqTick_cases x s with ⟨legal, inside, stores⟩ | ⟨legal, outside, faults⟩ | ⟨illegal, refuses⟩
  · rw [stores, acqTick_stores (s := s.untimed) x legal inside]
    rfl
  · rw [faults, acqTick_faults (s := s.untimed) x legal outside]
  · rw [refuses, (acqTick_refused_iff (s := s.untimed) x).2 illegal]

theorem playTick_of_word {s : State} {y : Sample} (inside : s.playIdx.toNat < Config.playbackCapacity)
    (word : outConv (gainMul (playSlot s s.playIdx.toNat) s.gain) = some y) :
    playTick s = .next (finishPlay y s) := by
  simp only [playTick, playRead_eq_some.2 ⟨inside, rfl⟩, word]

theorem playTick_of_noWord {s : State} (inside : s.playIdx.toNat < Config.playbackCapacity)
    (noWord : outConv (gainMul (playSlot s s.playIdx.toNat) s.gain) = none) :
    playTick s = .next (finishPlay (Config.nanWord s.nanDraws) (drawNan s)) := by
  simp only [playTick, playRead_eq_some.2 ⟨inside, rfl⟩, noWord]

theorem timeless_playTick : Timeless playTick := by
  intro s
  rcases playTick_cases s with ⟨inside, ⟨y, word, plays⟩ | ⟨noWord, playsFree⟩⟩ | ⟨outside, faults⟩
  · rw [plays, playTick_of_word (s := s.untimed) inside word]
    rfl
  · rw [playsFree, playTick_of_noWord (s := s.untimed) inside noWord]
    rfl
  · rw [faults, playTick_faults (s := s.untimed) outside]

theorem timeless_runCommand {action : State → Answer} (timeless : Timeless action) (c : Cmd) (len : Len) :
    Timeless (runCommand c len action) := by
  intro s
  have init : s.untimed.initDone = s.initDone := rfl
  have disp : s.untimed.dispCmd = s.dispCmd := rfl
  rw [runCommand, runCommand, init, disp]
  split_ifs
  · rfl
  · rfl
  · exact timeless s
  · rfl

theorem timeless_exec (i : Instr) : Timeless (exec i) := by
  cases i with
  | receiveRate => exact timeless_runCommand timeless_recvRateAction _ _
  | sendRate => exact timeless_runCommand (action := sendRateAction) (fun _ => rfl) _ _
  | receiveWaveform => exact timeless_runCommand timeless_recvWaveAction _ _
  | sendWaveform => exact timeless_runCommand timeless_sendWaveAction _ _
  | _ => exact timeless_runCommand (action := fun t => .next t) (fun _ => rfl) _ _

/-- An event's guard reads neither counters nor schedule. -/
theorem enabled_untimed (e : Event) (s : State) : e.enabled s.untimed = e.enabled s := by
  cases e <;> rfl

theorem fetchHeader_untimed (s : State) :
    fetchHeader s.untimed = (fetchHeader s).map (Prod.map id State.untimed) := by
  have bytes : s.untimed.rxfifo = s.rxfifo := rfl
  rw [fetchHeader, fetchHeader, bytes]
  cases decode s.rxfifo <;> rfl

/-- No event but a clock edge depends on the counters or the schedule (R121). -/
theorem timeless_perform {e : Event} (noEdge : e ≠ .clockEdge) : Timeless (perform e) := by
  intro s
  cases enabled : e.enabled s with
  | false =>
    rw [perform_notEnabled enabled, perform_notEnabled ((enabled_untimed e s).trans enabled)]
    cases e <;> rfl
  | true =>
    rw [perform_enabled enabled, perform_enabled ((enabled_untimed e s).trans enabled)]
    cases e with
    | clockEdge => exact absurd rfl noEdge
    | rxHeader =>
      simp only [takeEvent, fetchHeader_untimed]
      cases fetchHeader s with
      | none => rfl
      | some header => exact timeless_exec header.1 header.2
    | hostPush b =>
      simp only [takeEvent, hostPush, rxArrive_eq]
      rfl
    | claim =>
      simp only [takeEvent, claim_eq]
      rfl
    | execRecvRate | execSendRate | execRecvWave | execSendWave => exact timeless_exec _ s
    | acqTick x => exact timeless_acqTick x s
    | playTick => exact timeless_playTick s
    | gainDrive | initDone | reset => rfl

/-! ## The machine is covered by the model without time -/

/-- A clock edge raises both requests, one or none, and moves the counters (R118). -/
theorem clockEdge_eq_raises (s : State) :
    ∃ r ∈ [s, raiseAcq s, raisePlay s, raisePlay (raiseAcq s)],
      clockEdge s = { r with acqCnt := (clockEdge s).acqCnt, playCnt := (clockEdge s).playCnt } := by
  rw [clockEdge_eq]
  by_cases acq : s.acqCnt = 0 <;> by_cases play : s.playCnt = 0
  · exact ⟨raisePlay (raiseAcq s), by simp, by simp only [if_pos acq, if_pos play, raiseAcq, raisePlay]⟩
  · exact ⟨raiseAcq s, by simp, by simp only [if_pos acq, if_neg play, raiseAcq]⟩
  · exact ⟨raisePlay s, by simp, by simp only [if_neg acq, if_pos play, raisePlay]⟩
  · exact ⟨s, by simp, by simp only [if_neg acq, if_neg play]⟩

theorem performUntimed_raiseAcq {s : State} (init : s.initDone = true) :
    performUntimed .raiseAcq s = .next (raiseAcq s) := performUntimed_enabled init

theorem performUntimed_raisePlay {s : State} (init : s.initDone = true) :
    performUntimed .raisePlay s = .next (raisePlay s) := performUntimed_enabled init

theorem performUntimed_timed {e : Event} {s : State} (noEdge : e ≠ .clockEdge) (enabled : e.enabled s = true) :
    performUntimed (.timed e) s = perform e s := by
  refine performUntimed_enabled ?_
  cases e with
  | clockEdge => exact absurd rfl noEdge
  | _ => exact enabled

/-- The guards hold alike in states that differ in nothing but counters and schedule. -/
theorem enabled_eq_of_untimed_eq {s a : State} (same : a.untimed = s.untimed) (e : Event) :
    e.enabled a = e.enabled s := by
  rw [← enabled_untimed e a, same, enabled_untimed]

/-- The raises of an edge, as steps of the model without time. -/
theorem runUntimed_covers_clockEdge {s a : State} (init : s.initDone = true) (same : a.untimed = s.untimed) :
    ∃ us b, runUntimed us a = .next b ∧ b.untimed = (clockEdge s).untimed := by
  have ready : a.initDone = true := (enabled_eq_of_untimed_eq same .clockEdge).trans init
  have raisesAcq := runUntimed_cons (us := []) (performUntimed_raiseAcq ready)
  have raisesPlay := runUntimed_cons (us := []) (performUntimed_raisePlay ready)
  have raisesBoth := (runUntimed_cons (us := [.raisePlay]) (performUntimed_raiseAcq ready)).trans
    (runUntimed_cons (us := []) (performUntimed_raisePlay (s := raiseAcq a) ready))
  obtain ⟨r, raised, moved⟩ := clockEdge_eq_raises s
  have timeless : (clockEdge s).untimed = r.untimed := by
    rw [moved]
    rfl
  simp only [List.mem_cons, List.not_mem_nil, or_false] at raised
  rw [timeless]
  rcases raised with rfl | rfl | rfl | rfl
  · exact ⟨[], a, rfl, same⟩
  · exact ⟨_, _, raisesAcq, congrArg raiseAcq same⟩
  · exact ⟨_, _, raisesPlay, congrArg raisePlay same⟩
  · exact ⟨_, _, raisesBoth, congrArg (raisePlay ∘ raiseAcq) same⟩

/-- Each event of the machine is a run of the model without time: a clock edge its raises, any other event itself where
its guard holds, and nothing where it does not. -/
theorem runUntimed_covers_perform {e : Event} {s t a : State} (performed : perform e s = .next t)
    (same : a.untimed = s.untimed) : ∃ us b, runUntimed us a = .next b ∧ b.untimed = t.untimed := by
  cases enabled : e.enabled s with
  | false =>
    rw [perform_notEnabled enabled] at performed
    split at performed <;> cases performed
    exact ⟨[], a, rfl, same⟩
  | true =>
    by_cases edge : e = .clockEdge
    · subst edge
      rw [perform_enabled enabled] at performed
      cases performed
      exact runUntimed_covers_clockEdge enabled same
    · have answered : untimedAnswer (perform e a) = .next t.untimed := by
        rw [← timeless_perform edge a, same, timeless_perform edge s, performed, untimedAnswer]
      obtain ⟨b, performed, kept⟩ := untimedAnswer_eq_next answered
      have ready := (enabled_eq_of_untimed_eq same e).trans enabled
      exact ⟨[.timed e], b, runUntimed_cons ((performUntimed_timed edge ready).trans performed), kept⟩

/-! ## The timers keep running -/

/-- A raise that is always enabled is taken again and again, and its effect is seen after it (R121, D24). -/
theorem raised_again {schedule : Nat → UntimedEvent} {r : Nat → State} {u : UntimedEvent} {raise : State → State}
    (run : IsUntimedRun schedule r) (fair : TimersKeepRunning schedule r) (isRaise : u ∈ [.raiseAcq, .raisePlay])
    (enabled : ∀ k, u.enabled (r k) = true) (raises : ∀ k, performUntimed u (r k) = .next (raise (r k))) (n : Nat) :
    ∃ m, n ≤ m ∧ ∃ s, r m = raise s := by
  obtain ⟨m, le, taken⟩ := fair u isRaise n fun m _ => enabled m
  have performed := run m
  rw [taken, raises m] at performed
  exact ⟨m + 1, Nat.le_succ_of_le le, r m, (Host.Outcome.next.inj performed).symm⟩

/-- Settles O50: the guards of the raises; the four outcomes of an edge; the cover of a step; and fairness to each
raise, whose guard holds throughout. -/
theorem untimedModelCoversClockEdge : Obligations.UntimedModelCoversClockEdge := by
  unfold Obligations.UntimedModelCoversClockEdge
  refine ⟨fun s => ?_, fun s _ => clockEdge_eq_raises s, fun s t a stepped same => ?_,
    fun schedule r run fair init n => ⟨?_, ?_⟩⟩
  · by_cases init : s.initDone = true
    · rw [if_pos init, if_pos init]
      exact ⟨performUntimed_raiseAcq init, performUntimed_raisePlay init⟩
    · rw [if_neg init, if_neg init]
      have disabled : s.initDone = false := Bool.eq_false_iff.2 init
      exact ⟨performUntimed_notEnabled disabled, performUntimed_notEnabled disabled⟩
  · exact runUntimed_covers_perform (s := s.advance) stepped same
  · obtain ⟨m, le, s, raised⟩ :=
      raised_again run fair (u := .raiseAcq) (by simp) init (fun k => performUntimed_raiseAcq (init k)) n
    exact ⟨m, le, congrArg State.acqReq raised⟩
  · obtain ⟨m, le, s, raised⟩ :=
      raised_again run fair (u := .raisePlay) (by simp) init (fun k => performUntimed_raisePlay (init k)) n
    exact ⟨m, le, congrArg State.playReq raised⟩

end Sys2Proof.Machine

/-!
# Proofs: exceptions and ownership (spec 60_exceptions.md R129, R134, R136)

The two engines share no element but the acknowledges, so their ticks commute; and every step but a reset writes only the
shared elements that its agents own.
-/

namespace Sys2Proof.Machine

/-! ## Each shared element is written only by its owners -/

/-- Settles O60, by the inversion of the step: each case writes the elements of its own agent, and its event and the
claimed command name that agent. -/
theorem onlyOwnersWriteSharedState : Obligations.OnlyOwnersWriteSharedState := by
  unfold Obligations.OnlyOwnersWriteSharedState
  intro s t stepped noReset
  cases step_result stepped with
  | idle | started => simp
  | push _ event => simp [event, hostPush, rxArrive_eq]
  | parse _ _ _ _ event _ polling => simp [event, polling]
  | rateSet _ _ _ event _ busy | rateIgnored _ _ _ event _ busy | rateSent event _ busy => simp [event, busy]
  | sampleStored _ _ _ event _ busy | sampleSent event _ busy =>
    rcases advanceXfer_cases _ _ with ⟨-, released⟩ | ⟨-, moved⟩
    · rw [released]
      simp [event, busy]
    · rw [moved]
      simp [event, busy]
  | claimed event | sampleTaken _ event | samplePlayed _ event | nanPlayed event | gainDriven _ event => simp [event]
  | edge => simp [clockEdge_eq]
  | wasReset event => exact absurd event noReset

/-! ## The two engines commute -/

/-- An acquisition tick that answers has stored its sample (R103). -/
theorem acqTick_eq_next {x : Sample} {s t : State} (answers : acqTick x s = .next t) : t = afterAcq x s := by
  rcases acqTick_cases x s with ⟨-, -, stores⟩ | ⟨-, -, faults⟩ | ⟨-, refuses⟩
  · cases stores.symm.trans answers
    rfl
  · cases faults.symm.trans answers
  · cases refuses.symm.trans answers

/-- A playback tick reads nothing that an acquisition tick writes: after one it puts out the same word and makes as many
draws (R134). -/
theorem playTick_afterAcq {s b : State} (x : Sample) (answers : playTick s = .next b) :
    ∃ y draws, b = finishPlay y { s with nanDraws := draws } ∧
      playTick (afterAcq x s) = .next (finishPlay y { afterAcq x s with nanDraws := draws }) := by
  rcases playTick_cases s with ⟨inside, ⟨y, word, plays⟩ | ⟨noWord, plays⟩⟩ | ⟨-, faults⟩
  · cases plays.symm.trans answers
    exact ⟨y, s.nanDraws, rfl, playTick_of_word (s := afterAcq x s) inside word⟩
  · cases plays.symm.trans answers
    exact ⟨_, s.nanDraws + 1, rfl, playTick_of_noWord (s := afterAcq x s) inside noWord⟩
  · cases faults.symm.trans answers

/-- Settles O44: both ends are the same stores, but for the acknowledges, appended in the order of service. -/
theorem engineTicksCommute : Obligations.EngineTicksCommute := by
  unfold Obligations.EngineTicksCommute
  intro s a b ab ba x acqFirst playSecond playFirst acqSecond
  obtain ⟨y, draws, rfl, playAfter⟩ := playTick_afterAcq x playFirst
  rw [acqTick_eq_next acqFirst] at playSecond
  cases playAfter.symm.trans playSecond
  rw [acqTick_eq_next acqSecond]
  simp [afterAcq, finishAcq, finishPlay]

end Sys2Proof.Machine

/-!
# Proofs: the reset event (spec 70_reset_and_hazards.md R142)
-/

namespace Sys2Proof.Machine

/-- `Reset` has no guard: in every state its step is the reset of the block, after the turn is counted. -/
theorem step_resets {s : State} (event : nextEvent s = .reset) : step s = .next (resetBlock s.advance) :=
  step_eq_answer event rfl rfl

/-- Settles O54: the step is `resetBlock`, whose fields are those of `State.reset` but for the gain and the run's own,
which the turn's advance leaves or counts on. -/
theorem resetSetsEveryRegister : Obligations.ResetSetsEveryRegister := by
  unfold Obligations.ResetSetsEveryRegister
  intro s event
  rw [step_resets event]
  rfl

end Sys2Proof.Machine

/-!
# Proofs: the hold while another command is claimed (spec 40_header_parse.md R77; log 4)
-/

namespace Sys2Proof.Machine

/-- While another command is claimed, one step of `c` is no step. -/
theorem runCommand_of_other_claimed {c : Cmd} {s : State} (busy : s.dispCmd ≠ .none) (other : s.dispCmd ≠ c)
    (len : Len) (action : State → Answer) : runCommand c len action s = .next s := by
  rcases runCommand_cases c len action s with ⟨-, waits⟩ | ⟨-, polling, -⟩ | ⟨-, -, claimed, -⟩ | ⟨-, -, -, holds⟩
  · exact waits
  · exact absurd polling busy
  · exact absurd claimed other
  · exact holds

/-- Every instruction runs as the command it is stored as, with an action of its own. -/
theorem exec_eq_runCommand_storedAs (i : Instr) :
    ∃ action, exec i = runCommand (Laws.StoredCommand.storedAs i) i.lenField action := by
  cases i <;> exact ⟨_, rfl⟩

/-- Settles O15: `exec` runs the command the instruction is stored as, which is the one its id decodes to, and while
another is claimed that run does nothing. -/
theorem otherClaimedCommandHolds : Obligations.OtherClaimedCommandHolds := by
  unfold Obligations.OtherClaimedCommandHolds
  intro i s wf busy other
  rw [← storedAs_eq_decodeCmd_idByte wf] at other
  obtain ⟨action, runs⟩ := exec_eq_runCommand_storedAs i
  rw [runs]
  exact runCommand_of_other_claimed busy other i.lenField action

end Sys2Proof.Machine
